-- ==== Sys2Proof/Word.lean ====
section
/-! DEFINITION. Word types and the small fixed-size collections the state is made of. -/

namespace Sys2Proof

/-- A byte as it stands on a steno line, in a packet or on the display. -/
abbrev Byte := BitVec 8

/-- A frame number: 32 bits, wrapping (R2, R3). -/
abbrev Frame := BitVec 32

/-- A status count: 16 bits, saturating at 65535 (00_scope section 3.4). -/
abbrev Count := BitVec 16

/-- Steno line 0 to 3 (00_scope section 3.1). -/
abbrev LineIx := Fin 4

/-- Service 0 to 3 (00_scope section 3.1). -/
abbrev ServiceIx := Fin 4

/-- Studio input 0 to 7 (00_scope section 3.1). -/
abbrev InputIx := Fin 8

/-- Four like things: the lines, the services. -/
structure Quad (α : Type) where
  q0 : α
  q1 : α
  q2 : α
  q3 : α
  deriving DecidableEq, Repr

/-- Eight like things: the studio inputs. -/
structure Oct (α : Type) where
  o0 : α
  o1 : α
  o2 : α
  o3 : α
  o4 : α
  o5 : α
  o6 : α
  o7 : α
  deriving DecidableEq, Repr

/-- The four indices, lowest first. -/
def fours : List (Fin 4) := [0, 1, 2, 3]

/-- The eight input numbers, lowest first. -/
def eights : List (Fin 8) := [0, 1, 2, 3, 4, 5, 6, 7]

def Quad.get {α : Type} (q : Quad α) : Fin 4 → α
  | 0 => q.q0
  | 1 => q.q1
  | 2 => q.q2
  | 3 => q.q3

def Quad.set {α : Type} (q : Quad α) (i : Fin 4) (x : α) : Quad α :=
  match i with
  | 0 => { q with q0 := x }
  | 1 => { q with q1 := x }
  | 2 => { q with q2 := x }
  | 3 => { q with q3 := x }

def Quad.map {α β : Type} (f : α → β) (q : Quad α) : Quad β :=
  { q0 := f q.q0, q1 := f q.q1, q2 := f q.q2, q3 := f q.q3 }

def Quad.fill {α : Type} (x : α) : Quad α := { q0 := x, q1 := x, q2 := x, q3 := x }

def Oct.get {α : Type} (q : Oct α) : Fin 8 → α
  | 0 => q.o0
  | 1 => q.o1
  | 2 => q.o2
  | 3 => q.o3
  | 4 => q.o4
  | 5 => q.o5
  | 6 => q.o6
  | 7 => q.o7

def Oct.set {α : Type} (q : Oct α) (i : Fin 8) (x : α) : Oct α :=
  match i with
  | 0 => { q with o0 := x }
  | 1 => { q with o1 := x }
  | 2 => { q with o2 := x }
  | 3 => { q with o3 := x }
  | 4 => { q with o4 := x }
  | 5 => { q with o5 := x }
  | 6 => { q with o6 := x }
  | 7 => { q with o7 := x }

def Oct.map {α β : Type} (f : α → β) (q : Oct α) : Oct β :=
  { o0 := f q.o0, o1 := f q.o1, o2 := f q.o2, o3 := f q.o3,
    o4 := f q.o4, o5 := f q.o5, o6 := f q.o6, o7 := f q.o7 }

def Oct.fill {α : Type} (x : α) : Oct α :=
  { o0 := x, o1 := x, o2 := x, o3 := x, o4 := x, o5 := x, o6 := x, o7 := x }

end Sys2Proof
end

