-- ==== Sys2Proof/Syntax.lean ====
section
/-! DEFINITION. The commands: one constructor of `Instr` for each row of spec/opcode_table.json. -/

namespace Sys2Proof

/-- One piece of frame-start work (R1, 95_what_each_step_holds.md), or the drain check of a carriage
point (R101). -/
inductive Work where
  /-- an input takes a change whose run has reached Nr + 1 (R63) -/
  | edge (i : InputIx)
  /-- the onset list sheds its old onsets (R53) -/
  | onsetExpiry (v : ServiceIx)
  /-- the flush-delay check (R38) -/
  | flush (l : LineIx)
  /-- step 1 of source selection: the standby age-out (R75) -/
  | ageOut (v : ServiceIx)
  /-- step 2 of source selection: the end of an expired hold (R81) -/
  | holdEnd (v : ServiceIx)
  /-- step 3 of source selection: the silence check (R76) -/
  | silence (v : ServiceIx)
  /-- the timed check of a runner (R95) -/
  | timed (v : ServiceIx)
  /-- the frame-start retry of a held word (R41) -/
  | retry (l : LineIx)
  /-- the serving of a cue queue (R113) -/
  | serve (v : ServiceIx)
  /-- the hold-expiry check of an open block (R129) -/
  | blockHold (v : ServiceIx)
  /-- the frame-start append of the block queue's head (R134) -/
  | append (v : ServiceIx)
  /-- the stale-clear check (R126) -/
  | stale (v : ServiceIx)
  /-- the Dmax clear (R136) -/
  | dmax (v : ServiceIx)
  /-- the drain check of a carriage point, taken after the assembly (R101) -/
  | drain (v : ServiceIx)
  deriving DecidableEq, Repr

/-- A control packet with a complete header, less its class and request kind (11 section 11.1): the
device address, the tag, the announced body length, and the body bytes that stand in the packet. -/
structure Request where
  addr : Byte
  tag : Byte
  len : Byte
  body : List Byte
  deriving DecidableEq, Repr

/-- How the events that meet inside one internal frame are ordered: the frame-start work taken first,
in this order (the rest follows in the model's own order), and, at bit v of `drainFirst`, whether
runner v makes its drain check before the packet assembly (R10, R101; log 2). -/
structure InternalFrame where
  order : List Work
  drainFirst : BitVec 4
  deriving DecidableEq, Repr

/-- The commands. Bit i of a `levels` operand is the level on the pin of GPI i (R63). -/
inductive Instr where
  | powerOnReset
  | resetPinAssert
  | resetPinRelease
  | frameStart (levels : BitVec 8)
  | lossThresholdExpiry (levels : BitVec 8) (f1 f2 f3 : InternalFrame)
  | frameTimerExpiry (levels : BitVec 8) (f : InternalFrame)
  | carriagePoint (drainFirst : BitVec 4)
  | captionPacketRemoved (packet : List Byte)
  | controlPacketForwarded (packet : List Byte)
  | unknownRequest (kind : Byte) (p : Request)
  | setDevice (p : Request)
  | loadLine (p : Request)
  | loadService (p : Request)
  | loadSlotmap (p : Request)
  | loadStory (p : Request)
  | loadCue (p : Request)
  | loadGpi (p : Request)
  | arm (p : Request)
  | advance (p : Request)
  | cancel (p : Request)
  | select (p : Request)
  | clear (p : Request)
  | restart (p : Request)
  | softReset (p : Request)
  | query (p : Request)
  | characterReceived (l : LineIx) (data : Byte) (parityBit stopBit : Bool)
  | transmitComplete (l : LineIx)
  | flushDelayExpiry (l : LineIx)
  | heldWordRetry (l : LineIx)
  | gpiEdgeAccepted (i : InputIx)
  | onsetExpiry (v : ServiceIx)
  | standbyAgeOut (v : ServiceIx)
  | stenographerHoldExpiry (v : ServiceIx)
  | silenceLimitReached (v : ServiceIx)
  | timedIssue (v : ServiceIx)
  | rollUpRelease (v : ServiceIx)
  | popOnTake (v : ServiceIx)
  | pendingClosing (v : ServiceIx)
  | cueBlockFormation (v : ServiceIx)
  | blockHoldExpiry (v : ServiceIx)
  | blockAppend (v : ServiceIx)
  | staleClear (v : ServiceIx)
  | dmaxClear (v : ServiceIx)
  | drainComplete (v : ServiceIx)
  | startBitDetected (l : LineIx) (highAtMiddle : Bool)
  | wireSeenHigh (l : LineIx)
  deriving DecidableEq, Repr

end Sys2Proof
end

