-- ==== Sys2Proof/Decode.lean ====
section
/-! DEFINITION. The command that a word spells. No row of spec/opcode_table.json gives any bits
(98_reader.md: 0 rows with fixed bits, 0 with fields), so no word spells a command. -/

namespace Sys2Proof

/-- None: the table gives no row a bit. -/
def decodeTableWord (_nbits _w : Nat) : Option Instr := none

end Sys2Proof
end

