-- ==== Sys2Proof/Config.lean ====
section
/-! DEFINITION. What is fixed for the part: the capacities and limits of the rules, the bound of the
reaction loop, and the one free value. -/

namespace Sys2Proof.Config

/-- The intake FIFO holds 128 items (02 section 2.3, R21). -/
def intakeCapacity : Nat := 128

/-- An append that leaves this many items sets the XOFF mark (R24). -/
def xoffThreshold : Nat := 96

/-- A removal that leaves this many items clears the XOFF mark (R24). -/
def xonThreshold : Nat := 32

/-- A removal that leaves this many items ends an overrun episode (R22, R23). -/
def episodeEnd : Nat := 95

/-- A word holds at most 32 glyphs (R33). -/
def wordLimit : Nat := 32

/-- The standby hold holds at most 8 words (R74). -/
def standbyCapacity : Nat := 8

/-- The onset list holds at most 8 onsets (R52). -/
def onsetCapacity : Nat := 8

/-- An onset older than this many frames expires (R53). -/
def onsetAgeLimit : Int := 1023

/-- The cue queue holds at most 64 entries (R104). -/
def queueCapacity : Nat := 64

/-- The block queue holds at most 4 closed blocks (R134). -/
def blockCapacity : Nat := 4

/-- The output FIFO holds at most 256 bytes (R140). -/
def fifoCapacity : Nat := 256

/-- The caption payload is 48 bytes (R143, R148). -/
def payloadSize : Nat := 48

/-- A slot is 4 bytes (R143). -/
def slotSize : Nat := 4

/-- The report queue holds at most 16 reports (R155, R156). -/
def reportCapacity : Nat := 16

/-- A stored past frame number trails PFN by at most 2^19 frames (R3). -/
def pastLimit : Nat := 524288

/-- A cue text holds at most 96 glyphs (R89). -/
def cueGlyphLimit : Nat := 96

/-- A bound on the reactions inside one event (log 4). -/
def settleFuel : Nat := 1048576

/-- FREE VALUE (log 3). How many frames F of a word that a retraction reopens lies behind PFN: R44 does not
state it, and R3 with section 3.1 bounds it, F being a past frame number. It is applied to the counter
`State.draws`. Nothing more can be proved of its values. -/
opaque reopenedAge : Nat → Fin (pastLimit + 1)

end Sys2Proof.Config
end

