-- ==== Sys2Proof/Machine/State.lean ====
section
/-! DEFINITION. The state of the device, block by block, as plain data, and its value after reset. -/

namespace Sys2Proof.Machine

/-! ### Frame port (chapter 1) -/

/-- R4, R152: the five frame rates. -/
inductive FrameRate where
  | f24 | f25 | f30 | f50 | f60
  deriving DecidableEq, Repr

/-- Section 1.4: the reference states. -/
inductive RefState where
  | seeking | locked | freewheel
  deriving DecidableEq, Repr

/-- R5, R7: the frame timer. Its elapsed part is time that the model leaves out (log 16): what is held
is how many nominal periods it runs for, and the FPS in force when it was last restarted. -/
inductive FrameTimer where
  | idle
  | running (periods : Nat) (fps : FrameRate)
  deriving DecidableEq, Repr

/-- Section 1.3: the device record. -/
structure DeviceRecord where
  fps : FrameRate
  delay : Nat
  address : Nat
  deriving DecidableEq, Repr

/-! ### Steno lines (chapter 2) -/

/-- Section 2.1: the line rates, in the order of their positions. -/
inductive LineRate where
  | r1200 | r2400 | r4800 | r9600 | r19200 | r38400
  deriving DecidableEq, Repr

inductive DataBits where
  | seven | eight
  deriving DecidableEq, Repr

inductive Parity where
  | none | odd | even
  deriving DecidableEq, Repr

/-- Sections 2.1, 3.1 and 4.1: the line record. -/
structure LineRecord where
  enabled : Bool
  rate : LineRate
  dataBits : DataBits
  parity : Parity
  flow : Bool
  substitute : Byte
  flushDelay : Nat
  l0 : Nat
  lmin : Nat
  lmax : Nat
  adaptive : Bool
  deriving DecidableEq, Repr

/-- R16, R17: what the receiver is doing. A character being timed keeps the record that was in force at
its start bit, the enabled field included. -/
inductive Receiver where
  | watching
  | timing (record : LineRecord)
  | waitHigh
  deriving DecidableEq, Repr

/-- Section 2.3: an item of the intake FIFO, the substitute already applied. -/
structure IntakeItem where
  value : Byte
  errored : Bool
  deriving DecidableEq, Repr

/-- R24, R25: the two bytes that the transmitter sends. -/
inductive FlowByte where
  | xon | xoff
  deriving DecidableEq, Repr

/-- R25: a character being sent, in the format it was started with. -/
structure Sending where
  byte : FlowByte
  rate : LineRate
  dataBits : DataBits
  parity : Parity
  deriving DecidableEq, Repr

/-! ### Word assemblers (chapter 3) -/

/-- A glyph with its errored mark (R33). -/
structure KeyedGlyph where
  glyph : Byte
  errored : Bool
  deriving DecidableEq, Repr

/-- Section 3.3: the word record. The substituted flag is read off the glyphs (`WordRecord.substituted`),
and the target frame stands in the cue queue's entry. -/
structure WordRecord where
  glyphs : List KeyedGlyph
  line : LineIx
  arrival : Frame
  speaker : Bool
  breakBefore : Bool
  breakAfter : Bool
  cont : Bool
  floor : Option Frame
  deriving DecidableEq, Repr

/-- R44: what a reopened word keeps, with the service it was taken from (R49). -/
structure Retracted where
  service : ServiceIx
  arrival : Frame
  floor : Frame
  deriving DecidableEq, Repr

/-- R41: what a stalled assembler keeps: a word, or a CLEAR marker with its arrival frame. -/
inductive HeldItem where
  | word (w : WordRecord)
  | marker (arrival : Frame)
  deriving DecidableEq, Repr

/-- R41: the held item and the service on whose cue queue it waits. -/
structure Held where
  item : HeldItem
  on : ServiceIx
  deriving DecidableEq, Repr

/-- Section 3.1: the state of a word assembler. `clearPending` holds the pending marker's arrival frame
(R42). `retryOwed` is the model's working mark of R41: an entry has left the queue the held item waits
on, in this event (log 4). -/
structure Assembler where
  glyphs : List KeyedGlyph
  first : Option Frame
  retracted : Option Retracted
  carriedSpeaker : Bool
  carriedBreak : Bool
  carriedCont : Bool
  speakerPending : Bool
  breakPending : Bool
  contPending : Bool
  held : Option Held
  clearPending : Option Frame
  retryOwed : Bool
  completed : Count
  unrouted : Count
  retractions : Count
  late : Count
  deriving DecidableEq, Repr

/-- Chapter 4: the latency state of a line. `lest` is in eighths of a frame (R51). -/
structure Latency where
  lest : Nat
  lastSample : Option Nat
  lastCompletion : Option Frame
  firstWord : Bool
  samples : Count
  unpaired : Count
  deriving DecidableEq, Repr

/-- A steno line with its word assembler and its latency state. -/
structure Line where
  record : LineRecord
  receiver : Receiver
  fifo : List IntakeItem
  xoff : Bool
  lastSent : FlowByte
  sending : Option Sending
  overrunOpen : Bool
  commandPending : Bool
  stamp : Frame
  received : Count
  parityErrors : Count
  framingErrors : Count
  overruns : Count
  discards : Count
  asm : Assembler
  lat : Latency
  deriving DecidableEq, Repr

/-! ### Studio inputs (chapter 5) -/

inductive GpiFunction where
  | none | onset | cue | mode | mute | clear
  deriving DecidableEq, Repr

/-- Section 5.1: the GPI record. -/
structure GpiRecord where
  function : GpiFunction
  target : ServiceIx
  activeHigh : Bool
  nr : Nat
  deriving DecidableEq, Repr

/-- Section 5.2: an input. `accepted` is none exactly while a baseline is pending (R64); a level is true
for high. The run stands at Nr + 1 from the sample that reaches it until the change is accepted. -/
structure Input where
  record : GpiRecord
  accepted : Option Bool
  run : Nat
  asserts : Count
  deasserts : Count
  deriving DecidableEq, Repr

/-! ### Services and source selection (chapter 6) -/

inductive Display where
  | rollUp | popOn
  deriving DecidableEq, Repr

/-- Section 6.1: the service record. -/
structure ServiceRecord where
  enabled : Bool
  primary : Option LineIx
  backup : Option LineIx
  display : Display
  width : Nat
  rows : Nat
  readingRate : Nat
  dmin : Nat
  dmax : Nat
  holdLimit : Nat
  tclear : Nat
  fs : Nat
  fh : Nat
  sofs : Int
  priority : Nat
  gap : Nat
  deriving DecidableEq, Repr

inductive Mode where
  | live | script
  deriving DecidableEq, Repr

inductive Choice where
  | primary | backup
  deriving DecidableEq, Repr

/-- Section 6.2: the runtime state of a service. `awaitsFrame` is set from a return to LIVE until the next
frame start, from which the silence check runs again (R82). -/
structure Selection where
  mode : Mode
  choice : Choice
  hold : Option Frame
  muted : Bool
  silentNotified : Bool
  awaitsFrame : Bool
  standby : List WordRecord
  failovers : Count
  standbyDropped : Count
  standbyExpired : Count
  mergeLost : Count
  holds : Count
  muteDiscards : Count
  deriving DecidableEq, Repr

/-- R52: the onset list of a service, oldest first, and its counts. -/
structure Onsets where
  frames : List Frame
  admitted : Count
  dropped : Count
  expired : Count
  deriving DecidableEq, Repr

/-! ### Script store and story runner (chapter 7) -/

inductive Advance where
  | triggered | timed
  deriving DecidableEq, Repr

inductive EndAction where
  | live | hold | next
  deriving DecidableEq, Repr

/-- Section 7.1: a story record. -/
structure Story where
  first : Nat
  count : Nat
  transfer : Nat
  ring : Option Nat
  advance : Advance
  endAction : EndAction
  next : Option Nat
  endNotice : Bool
  deriving DecidableEq, Repr

/-- Section 7.1: a cue record; 0x0A in the text is a row break. -/
structure Cue where
  text : List Byte
  interval : Nat
  deriving DecidableEq, Repr

inductive Phase where
  | idle | armed | running | suspended | draining
  deriving DecidableEq, Repr

/-- Section 7.2: a story runner. -/
structure Runner where
  phase : Phase
  story : Option Nat
  pointer : Nat
  remaining : Nat
  lastCueT : Option Frame
  nextBase : Option Frame
  timingHeld : Bool
  issued : Count
  ignored : Count
  lost : Count
  deferrals : Count
  deriving DecidableEq, Repr

/-! ### Release schedulers (chapter 8) -/

/-- R105: what an entry carries by its kind. -/
inductive EntryBody where
  | word (w : WordRecord)
  | clear (line : LineIx) (arrival : Frame)
  | cue (story index : Nat) (text : List Byte) (arrival : Frame)
  deriving DecidableEq, Repr

/-- R105: an entry of a cue queue with its target frame T. -/
structure Entry where
  body : EntryBody
  target : Frame
  deriving DecidableEq, Repr

/-- Chapter 8: a release scheduler; the queue's head is the oldest entry. -/
structure Scheduler where
  queue : List Entry
  lastLeft : Option Frame
  lastLateness : Count
  maxLateness : Count
  maxLag : Count
  fullRefusals : Count
  releases : Count
  stalls : Count
  deriving DecidableEq, Repr

/-! ### Caption builders (chapter 9) -/

inductive Form where
  | none | rolling | block
  deriving DecidableEq, Repr

/-- A row of a block: its glyphs. -/
abbrev Row := List Byte

/-- R127: a word of the open block, with its T and the rows as they stood before it (R44 puts them back).
`whole` is false for a word that has a piece in a closed block. -/
structure Placed where
  word : WordRecord
  target : Frame
  before : List Row
  whole : Bool
  deriving DecidableEq, Repr

/-- R128, R129: why a closing is pending; a hold expiry is counted when it is carried out. -/
inductive CloseCause where
  | ordinary | holdExpiry
  deriving DecidableEq, Repr

/-- R127 step 5: the pieces of a long word still to be placed, with the word and its T. -/
structure Carry where
  pieces : List Row
  word : WordRecord
  target : Frame
  deriving DecidableEq, Repr

/-- Section 9.3: the open block. T_first is the T of its first word. `expiring` says that the hold expiry of
this frame start, still to be taken, met the take of a word that stands in the block (R138, log 12). -/
structure OpenBlock where
  words : List Placed
  rows : List Row
  closing : Option CloseCause
  carry : Option Carry
  expiring : Bool
  deriving DecidableEq, Repr

/-- R131: the rows of a taken cue not yet formed, grouped into blocks at the take. -/
structure Formation where
  story : Nat
  index : Nat
  target : Frame
  groups : List (List Row)
  deriving DecidableEq, Repr

/-- Section 9.1: a closed TEXT block. Its glyph count n is read off its rows (`TextBlock.glyphCount`). -/
structure TextBlock where
  rows : List Row
  tFirst : Frame
  closed : Frame
  dur : Nat
  showFrame : Frame
  story : Option Nat
  trailing : Option Frame
  deriving DecidableEq, Repr

/-- Section 9.1: a closed block; a CLEAR-ONLY block has a not-before frame, T_first and Fc (R130). -/
inductive Block where
  | text (b : TextBlock)
  | clearOnly (notBefore tFirst closed : Frame)
  deriving DecidableEq, Repr

/-- R134 to R136: the Dmax timer. A waiting timer waits for the SHOW of the block appended last, which is
the last SHOW of the output FIFO: a later append replaces the timing, and whatever empties the FIFO cancels
it. -/
inductive DmaxTimer where
  | idle
  | waiting
  | running (due : Frame)
  deriving DecidableEq, Repr

/-- Section 9.1: a caption builder; `shown` is Sprev and durprev. -/
structure Builder where
  form : Form
  fill : Nat
  newRow : Bool
  lastRelease : Option Frame
  openBlock : OpenBlock
  cue : Option Formation
  blocks : List Block
  shown : Option (Frame × Nat)
  timer : DmaxTimer
  blocksClosed : Count
  holdExpiries : Count
  slips : Count
  timedClears : Count
  deriving DecidableEq, Repr

/-! ### Output multiplexer (chapter 10) -/

inductive UnitKind where
  | glyphs (gs : List Byte)
  | roll | newRow | showBlock | clear
  deriving DecidableEq, Repr

/-- Section 10.1: a unit; its service is that of the FIFO it stands in. -/
structure OutUnit where
  kind : UnitKind
  notBefore : Option Frame
  story : Option Nat
  deriving DecidableEq, Repr

/-- Section 10.1, R148: the output FIFO of a service and its carriage counts. -/
structure Carriage where
  fifo : List OutUnit
  unitsCarried : Count
  bytesCarried : Count
  round2Bytes : Count
  splits : Count
  starved : Count
  deriving DecidableEq, Repr

/-- The twelve slots of the map: a service, or none for OPEN (R142). -/
abbrev SlotMap := Vector (Option ServiceIx) 12

/-- A service with the blocks that serve it. -/
structure Service where
  record : ServiceRecord
  sel : Selection
  onsets : Onsets
  runner : Runner
  sched : Scheduler
  cb : Builder
  om : Carriage
  deriving DecidableEq, Repr

/-! ### Control interpreter and reports (chapter 11) -/

/-- Section 11.6: the reply codes. -/
inductive ReplyCode where
  | ok | clamped | badIndex | badValue | inUse | busy | incomplete | notArmed | notScript | malformed
  | unknown
  deriving DecidableEq, Repr

/-- R158: the notices and what each carries. -/
inductive Notice where
  | failover (service : ServiceIx) (oldLine newLine : LineIx) (pfn : Frame) (merged lost : Nat)
  | sourceSilent (service : ServiceIx) (line : LineIx) (silence : Frame)
  | storyEnd (service : ServiceIx) (story : Nat) (action : EndAction) (pfn : Frame)
      (failedNext : Option Nat)
  | storyDrained (service : ServiceIx) (story : Nat) (pfn : Frame)
  | lineOverrun (line : LineIx) (overruns : Count)
  | referenceLost (pfn : Frame)
  | referenceRestored (pfn : Frame) (internalFrames : BitVec 32)
  deriving DecidableEq, Repr

/-- Section 11.4: a report. -/
inductive Report where
  | reply (tag kind : Byte) (code : ReplyCode) (body : List Byte)
  | notice (n : Notice)
  deriving DecidableEq, Repr

/-- Chapter 11: the control interpreter's state. -/
structure Control where
  reports : List Report
  droppedNotice : Bool
  taken : Count
  refused : Count
  noticesDropped : Count
  repliesLost : Count
  deriving DecidableEq, Repr

/-! ### The device -/

/-- Everything the device holds, and the queue of waiting commands. `out`, `due`, `draws` and `pending`
are the model's own (log 5, log 1, log 3). -/
structure State where
  resetLow : Bool
  pfn : Frame
  ref : RefState
  timer : FrameTimer
  internalFrames : BitVec 32
  device : DeviceRecord
  lines : Quad Line
  inputs : Oct Input
  services : Quad Service
  stories : List (Nat × Story)
  cues : List (Nat × Cue)
  slotMap : SlotMap
  pendingMap : Option SlotMap
  ci : Control
  out : List (List Byte)
  due : List Work
  draws : Nat
  pending : List Instr
  deriving DecidableEq, Repr

/-- The spec stops the device nowhere, so there is no fault to name. -/
inductive Fault where
  deriving DecidableEq, Repr

/-- Why a command has no meaning. -/
inductive Refusal where
  /-- The dispatch raises it for a command with no meaning yet; safe. No arm does. -/
  | notModelled (mnemonic : String)
  deriving DecidableEq, Repr

/-! ### Reset values (R15, R31, R49, R61, R70, R73, R90, R122, R139, R150, R160) -/

def resetLineRecord : LineRecord :=
  { enabled := false, rate := .r9600, dataBits := .eight, parity := .none, flow := false,
    substitute := 0x23#8, flushDelay := 12, l0 := 100, lmin := 12, lmax := 250, adaptive := true }

def resetAssembler : Assembler :=
  { glyphs := [], first := none, retracted := none, carriedSpeaker := false, carriedBreak := false,
    carriedCont := false, speakerPending := false, breakPending := false, contPending := false,
    held := none, clearPending := none, retryOwed := false, completed := 0, unrouted := 0,
    retractions := 0, late := 0 }

def resetLatency : Latency :=
  { lest := 0, lastSample := none, lastCompletion := none, firstWord := false, samples := 0,
    unpaired := 0 }

/-- R31: a line after power-on; its receiver watches, of which R31 says nothing (log 15). -/
def resetLine : Line :=
  { record := resetLineRecord, receiver := .watching, fifo := [], xoff := false, lastSent := .xon,
    sending := none, overrunOpen := false, commandPending := false, stamp := 0, received := 0,
    parityErrors := 0, framingErrors := 0, overruns := 0, discards := 0, asm := resetAssembler,
    lat := resetLatency }

def resetInput : Input :=
  { record := { function := .none, target := 0, activeHigh := false, nr := 2 }, accepted := none,
    run := 0, asserts := 0, deasserts := 0 }

def resetServiceRecord : ServiceRecord :=
  { enabled := false, primary := none, backup := none, display := .rollUp, width := 32, rows := 2,
    readingRate := 15, dmin := 38, dmax := 150, holdLimit := 50, tclear := 375, fs := 250, fh := 3000,
    sofs := 0, priority := 3, gap := 25 }

def resetSelection : Selection :=
  { mode := .live, choice := .primary, hold := none, muted := false, silentNotified := false,
    awaitsFrame := false, standby := [], failovers := 0, standbyDropped := 0, standbyExpired := 0,
    mergeLost := 0, holds := 0, muteDiscards := 0 }

def resetOnsets : Onsets := { frames := [], admitted := 0, dropped := 0, expired := 0 }

def resetRunner : Runner :=
  { phase := .idle, story := none, pointer := 0, remaining := 0, lastCueT := none, nextBase := none,
    timingHeld := false, issued := 0, ignored := 0, lost := 0, deferrals := 0 }

def resetScheduler : Scheduler :=
  { queue := [], lastLeft := none, lastLateness := 0, maxLateness := 0, maxLag := 0,
    fullRefusals := 0, releases := 0, stalls := 0 }

def emptyOpenBlock : OpenBlock :=
  { words := [], rows := [], closing := none, carry := none, expiring := false }

def resetBuilder : Builder :=
  { form := .none, fill := 0, newRow := false, lastRelease := none, openBlock := emptyOpenBlock,
    cue := none, blocks := [], shown := none, timer := .idle, blocksClosed := 0, holdExpiries := 0,
    slips := 0, timedClears := 0 }

def resetCarriage : Carriage :=
  { fifo := [], unitsCarried := 0, bytesCarried := 0, round2Bytes := 0, splits := 0, starved := 0 }

def resetService : Service :=
  { record := resetServiceRecord, sel := resetSelection, onsets := resetOnsets, runner := resetRunner,
    sched := resetScheduler, cb := resetBuilder, om := resetCarriage }

def resetControl : Control :=
  { reports := [], droppedNotice := false, taken := 0, refused := 0, noticesDropped := 0,
    repliesLost := 0 }

/-- The device after power-on reset, with no command waiting. -/
def State.reset : State :=
  { resetLow := false, pfn := 0, ref := .seeking, timer := .idle, internalFrames := 0,
    device := { fps := .f25, delay := 0, address := 0 },
    lines := Quad.fill resetLine, inputs := Oct.fill resetInput, services := Quad.fill resetService,
    stories := [], cues := [],
    slotMap := #v[none, none, none, none, none, none, none, none, none, none, none, none],
    pendingMap := none, ci := resetControl, out := [], due := [], draws := 0, pending := [] }

end Sys2Proof.Machine
end

