-- ==== Sys2Proof/Machine/Ops.lean ====
section
/-! DEFINITION. Named operations shared by every block: frame numbers and counts, access to the parts of
the state, lists and the script store, the report queue, the transmitter, and the holding of past
frame numbers. -/

namespace Sys2Proof.Machine

/-! ### Frame numbers (R2, R3) -/

/-- R3: the difference b − a modulo 2^32, read as a signed number. -/
def frameDiff (a b : Frame) : Int := (b - a).toInt

/-- R3: a is at or before b. -/
def atOrBefore (a b : Frame) : Bool := decide (0 ≤ frameDiff a b)

/-- R3: a is strictly before b. -/
def strictlyBefore (a b : Frame) : Bool := decide (0 < frameDiff a b)

/-- R107, R133: the later of two frames, compared as R3 gives. -/
def latest (a b : Frame) : Frame := if atOrBefore a b then b else a

/-- A frame number moved by a number of frames (R3). -/
def moved (a : Frame) (n : Int) : Frame := a + BitVec.ofInt 32 n

/-- R3: a past frame number is held to at most 2^19 frames behind PFN. -/
def heldPast (pfn x : Frame) : Frame :=
  if (Config.pastLimit : Int) < frameDiff x pfn then moved pfn (-(Config.pastLimit : Int)) else x

/-! ### Counts and figures (00_scope section 3.4) -/

/-- A status count goes up by one and saturates at 65535. -/
def bump (c : Count) : Count := if c = 65535#16 then c else c + 1

/-- A status count goes up by n and saturates at 65535. -/
def bumpBy (c : Count) (n : Nat) : Count := BitVec.ofNat 16 (min 65535 (c.toNat + n))

/-- R110, R117: a figure in frames, saturating at 65535. -/
def figure (n : Int) : Count := BitVec.ofNat 16 (min 65535 n.toNat)

/-- The greater of two figures. -/
def maxFigure (a b : Count) : Count := if a.ult b then b else a

/-! ### Parts of the state -/

def State.line (s : State) (l : LineIx) : Line := s.lines.get l

def State.updLine (s : State) (l : LineIx) (f : Line → Line) : State :=
  { s with lines := s.lines.set l (f (s.lines.get l)) }

def State.updAsm (s : State) (l : LineIx) (f : Assembler → Assembler) : State :=
  s.updLine l fun x => { x with asm := f x.asm }

def State.updLat (s : State) (l : LineIx) (f : Latency → Latency) : State :=
  s.updLine l fun x => { x with lat := f x.lat }

def State.input (s : State) (i : InputIx) : Input := s.inputs.get i

def State.updInput (s : State) (i : InputIx) (f : Input → Input) : State :=
  { s with inputs := s.inputs.set i (f (s.inputs.get i)) }

def State.service (s : State) (v : ServiceIx) : Service := s.services.get v

def State.updService (s : State) (v : ServiceIx) (f : Service → Service) : State :=
  { s with services := s.services.set v (f (s.services.get v)) }

def State.updSel (s : State) (v : ServiceIx) (f : Selection → Selection) : State :=
  s.updService v fun x => { x with sel := f x.sel }

def State.updOnsets (s : State) (v : ServiceIx) (f : Onsets → Onsets) : State :=
  s.updService v fun x => { x with onsets := f x.onsets }

def State.updRunner (s : State) (v : ServiceIx) (f : Runner → Runner) : State :=
  s.updService v fun x => { x with runner := f x.runner }

def State.updSched (s : State) (v : ServiceIx) (f : Scheduler → Scheduler) : State :=
  s.updService v fun x => { x with sched := f x.sched }

def State.updCb (s : State) (v : ServiceIx) (f : Builder → Builder) : State :=
  s.updService v fun x => { x with cb := f x.cb }

def State.updOm (s : State) (v : ServiceIx) (f : Carriage → Carriage) : State :=
  s.updService v fun x => { x with om := f x.om }

def State.updCi (s : State) (f : Control → Control) : State := { s with ci := f s.ci }

/-- The operation applied for every line, lowest first. -/
def forLines (f : LineIx → State → State) (s : State) : State :=
  fours.foldl (fun t l => f l t) s

/-- The operation applied for every service, lowest first. -/
def forServices (f : ServiceIx → State → State) (s : State) : State :=
  fours.foldl (fun t v => f v t) s

/-- The operation applied for every studio input, lowest first. -/
def forInputs (f : InputIx → State → State) (s : State) : State :=
  eights.foldl (fun t i => f i t) s

/-! ### Lists -/

/-- A list cut from its first element into pieces of w, the last holding the rest (R125, R131). The
first argument bounds the number of pieces. -/
def chunk {α : Type} (w : Nat) : Nat → List α → List (List α)
  | 0, _ => []
  | _ + 1, [] => []
  | n + 1, x :: xs => (x :: xs).take w :: chunk w n ((x :: xs).drop w)

/-- R131: a cue text's segments; each 0x0A ends one. -/
def segments : List Byte → List (List Byte)
  | [] => [[]]
  | b :: bs =>
    match segments bs with
    | [] => [[b]]
    | r :: rs => if b = 0x0A#8 then [] :: r :: rs else (b :: r) :: rs

/-! ### The script store (R87) -/

/-- The record with number k, if it is loaded. -/
def storeGet {α : Type} (k : Nat) : List (Nat × α) → Option α
  | [] => none
  | (j, x) :: rest => if j = k then some x else storeGet k rest

/-- Record k stored or replaced; the numbers stay strictly rising. -/
def storePut {α : Type} (k : Nat) (x : α) : List (Nat × α) → List (Nat × α)
  | [] => [(k, x)]
  | (j, y) :: rest =>
    if k < j then (k, x) :: (j, y) :: rest
    else if k = j then (k, x) :: rest
    else (j, y) :: storePut k x rest

/-- The canonical form of the store: strictly rising numbers. -/
def storeWf {α : Type} : List (Nat × α) → Bool
  | [] => true
  | [_] => true
  | (j, _) :: (k, y) :: rest => decide (j < k) && storeWf ((k, y) :: rest)

/-! ### Bytes of reports (11 section 11.6: most significant byte first) -/

def bytes2 (n : Nat) : List Byte := [BitVec.ofNat 8 (n / 256), BitVec.ofNat 8 n]

def bytes4 (f : BitVec 32) : List Byte :=
  [f.extractLsb' 24 8, f.extractLsb' 16 8, f.extractLsb' 8 8, f.extractLsb' 0 8]

def byte1 (n : Nat) : Byte := BitVec.ofNat 8 n

def flagByte (b : Bool) : Byte := if b then 1#8 else 0#8

def countBytes (c : Count) : List Byte := [c.extractLsb' 8 8, c.extractLsb' 0 8]

/-! ### The report queue (R155, R156) -/

def isNotice : Report → Bool
  | .notice _ => true
  | .reply .. => false

/-- The list without its youngest notice, if it holds one (R155). -/
def withoutYoungestNotice : List Report → Option (List Report)
  | [] => none
  | r :: rs =>
    match withoutYoungestNotice rs with
    | some rs' => some (r :: rs')
    | none => if isNotice r then some rs else none

/-- R156: a notice joins the report queue, or is dropped when it is full. -/
def joinNotice (n : Notice) (c : Control) : Control :=
  if c.reports.length < Config.reportCapacity then { c with reports := c.reports ++ [.notice n] }
  else { c with droppedNotice := true, noticesDropped := bump c.noticesDropped }

/-- R155: a reply joins the report queue, displaces the youngest notice, or is lost. -/
def joinReply (r : Report) (c : Control) : Control :=
  if c.reports.length < Config.reportCapacity then { c with reports := c.reports ++ [r] }
  else
    match withoutYoungestNotice c.reports with
    | some rs =>
      { c with reports := rs ++ [r], droppedNotice := true, noticesDropped := bump c.noticesDropped }
    | none => { c with repliesLost := bump c.repliesLost }

/-- A block raises a notice (R156). -/
def raise (n : Notice) (s : State) : State := s.updCi (joinNotice n)

/-! ### The transmitter (R25) -/

/-- R25: the byte that the XOFF mark calls for. -/
def calledFor (x : Line) : FlowByte := if x.xoff then .xoff else .xon

/-- R25: an idle transmitter starts the byte called for when it differs from the last byte sent. -/
def transmit (x : Line) : Line :=
  if x.sending.isNone && calledFor x != x.lastSent then
    { x with sending := some { byte := calledFor x, rate := x.record.rate,
                               dataBits := x.record.dataBits, parity := x.record.parity } }
  else x

/-- R24 to R26: the XOFF mark takes a value, and the transmitter follows it. -/
def setXoff (mark : Bool) (x : Line) : Line := transmit { x with xoff := mark }

/-! ### Past frame numbers at a frame start (R3) -/

def heldWord (pfn : Frame) (w : WordRecord) : WordRecord :=
  { w with arrival := heldPast pfn w.arrival, floor := w.floor.map (heldPast pfn) }

def heldHeld (pfn : Frame) (h : Held) : Held :=
  { h with item := match h.item with
      | .word w => .word (heldWord pfn w)
      | .marker a => .marker (heldPast pfn a) }

def heldLine (pfn : Frame) (x : Line) : Line :=
  { x with
    stamp := heldPast pfn x.stamp
    asm := { x.asm with
      first := x.asm.first.map (heldPast pfn)
      retracted := x.asm.retracted.map fun r =>
        { r with arrival := heldPast pfn r.arrival, floor := heldPast pfn r.floor }
      held := x.asm.held.map (heldHeld pfn)
      clearPending := x.asm.clearPending.map (heldPast pfn) }
    lat := { x.lat with lastCompletion := x.lat.lastCompletion.map (heldPast pfn) } }

def heldBody (pfn : Frame) : EntryBody → EntryBody
  | .word w => .word (heldWord pfn w)
  | .clear l a => .clear l (heldPast pfn a)
  | .cue st ix text a => .cue st ix text (heldPast pfn a)

def heldEntry (pfn : Frame) (e : Entry) : Entry :=
  { body := heldBody pfn e.body, target := heldPast pfn e.target }

def heldBlock (pfn : Frame) : Block → Block
  | .text b => .text { b with
      tFirst := heldPast pfn b.tFirst
      closed := heldPast pfn b.closed
      showFrame := heldPast pfn b.showFrame
      trailing := b.trailing.map (heldPast pfn) }
  | .clearOnly nb tf fc => .clearOnly (heldPast pfn nb) (heldPast pfn tf) (heldPast pfn fc)

def heldOpen (pfn : Frame) (o : OpenBlock) : OpenBlock :=
  { o with
    words := o.words.map fun p =>
      { p with word := heldWord pfn p.word, target := heldPast pfn p.target }
    carry := o.carry.map fun c =>
      { c with word := heldWord pfn c.word, target := heldPast pfn c.target } }

def heldTimer (pfn : Frame) : DmaxTimer → DmaxTimer
  | .idle => .idle
  | .waiting => .waiting
  | .running f => .running (heldPast pfn f)

/-- R3: a service's frame numbers held, the not-before frames of its queued units among them (log 17). -/
def heldService (pfn : Frame) (x : Service) : Service :=
  { x with
    sel := { x.sel with
      hold := x.sel.hold.map (heldPast pfn)
      standby := x.sel.standby.map (heldWord pfn) }
    onsets := { x.onsets with frames := x.onsets.frames.map (heldPast pfn) }
    runner := { x.runner with
      lastCueT := x.runner.lastCueT.map (heldPast pfn)
      nextBase := x.runner.nextBase.map (heldPast pfn) }
    sched := { x.sched with
      queue := x.sched.queue.map (heldEntry pfn)
      lastLeft := x.sched.lastLeft.map (heldPast pfn) }
    cb := { x.cb with
      lastRelease := x.cb.lastRelease.map (heldPast pfn)
      openBlock := heldOpen pfn x.cb.openBlock
      cue := x.cb.cue.map fun c => { c with target := heldPast pfn c.target }
      blocks := x.cb.blocks.map (heldBlock pfn)
      shown := x.cb.shown.map fun p => (heldPast pfn p.1, p.2)
      timer := heldTimer pfn x.cb.timer }
    om := { x.om with
      fifo := x.om.fifo.map fun u => { u with notBefore := u.notBefore.map (heldPast pfn) } } }

/-- R3, R158: the PFN that a waiting notice carries is held; a silence and a number of frames are no frame
numbers (log 17). -/
def heldNotice (pfn : Frame) : Notice → Notice
  | .failover v a b n m k => .failover v a b (heldPast pfn n) m k
  | .sourceSilent v l d => .sourceSilent v l d
  | .storyEnd v k act n failed => .storyEnd v k act (heldPast pfn n) failed
  | .storyDrained v k n => .storyDrained v k (heldPast pfn n)
  | .lineOverrun l c => .lineOverrun l c
  | .referenceLost n => .referenceLost (heldPast pfn n)
  | .referenceRestored n k => .referenceRestored (heldPast pfn n) k

/-- R3: a waiting report; the bytes of a reply stay as they were formed (log 17). -/
def heldReport (pfn : Frame) : Report → Report
  | .reply tag kind code body => .reply tag kind code body
  | .notice n => .notice (heldNotice pfn n)

def heldControl (pfn : Frame) (c : Control) : Control :=
  { c with reports := c.reports.map (heldReport pfn) }

/-- R3: at a frame start every stored past frame number that trails PFN by more than 2^19 is held. -/
def holdPast (s : State) : State :=
  { s with
    lines := s.lines.map (heldLine s.pfn)
    services := s.services.map (heldService s.pfn)
    ci := heldControl s.pfn s.ci }

end Sys2Proof.Machine
end

