-- ==== Sys2Proof/Machine/Operands.lean ====
section
/-! DEFINITION. The operand forms: the fields of a control body (R151), as the rules that own the records
check and clamp them. Where a byte stands for a choice among listed values it is the value's position,
and a position outside the list is refused (log 11). -/

namespace Sys2Proof.Machine

/-- The byte at a place of a body. -/
def at1 (b : List Byte) (i : Nat) : Byte := b.getD i 0#8

/-- The one-byte number at a place of a body. -/
def num1 (b : List Byte) (i : Nat) : Nat := (at1 b i).toNat

/-- The two-byte number at a place of a body, most significant byte first. -/
def num2 (b : List Byte) (i : Nat) : Nat := 256 * num1 b i + num1 b (i + 1)

/-- A number brought into a range (00_scope section 3.5). -/
def clampNat (lo hi n : Nat) : Nat := max lo (min hi n)

/-- R71: Tclear and Fs: 0 is kept, 1 to 49 is raised to 50, above 3000 is lowered. -/
def clampOff (n : Nat) : Nat := if n = 0 then 0 else clampNat 50 3000 n

def asFin4 (b : Byte) : Option (Fin 4) :=
  if h : b.toNat < 4 then some ⟨b.toNat, h⟩ else none

def asFin8 (b : Byte) : Option (Fin 8) :=
  if h : b.toNat < 8 then some ⟨b.toNat, h⟩ else none

def asFlag (b : Byte) : Option Bool :=
  if b = 0#8 then some false else if b = 1#8 then some true else none

/-- A line, or none sent as 0xFF (R151). -/
def asLine (b : Byte) : Option (Option LineIx) :=
  if b = 0xFF#8 then some none else (asFin4 b).map some

def asFps (b : Byte) : Option FrameRate :=
  match b.toNat with
  | 24 => some .f24
  | 25 => some .f25
  | 30 => some .f30
  | 50 => some .f50
  | 60 => some .f60
  | _ => none

def asRate (b : Byte) : Option LineRate :=
  match b.toNat with
  | 0 => some .r1200
  | 1 => some .r2400
  | 2 => some .r4800
  | 3 => some .r9600
  | 4 => some .r19200
  | 5 => some .r38400
  | _ => none

def asDataBits (b : Byte) : Option DataBits :=
  match b.toNat with
  | 7 => some .seven
  | 8 => some .eight
  | _ => none

def asParity (b : Byte) : Option Parity :=
  match b.toNat with
  | 0 => some .none
  | 1 => some .odd
  | 2 => some .even
  | _ => none

/-- R16: a substitute glyph lies in 0x20 to 0x7E. -/
def asSubstitute (b : Byte) : Option Byte :=
  if 0x20 ≤ b.toNat ∧ b.toNat ≤ 0x7E then some b else none

def asFunction (b : Byte) : Option GpiFunction :=
  match b.toNat with
  | 0 => some .none
  | 1 => some .onset
  | 2 => some .cue
  | 3 => some .mode
  | 4 => some .mute
  | 5 => some .clear
  | _ => none

def asDisplay (b : Byte) : Option Display :=
  match b.toNat with
  | 0 => some .rollUp
  | 1 => some .popOn
  | _ => none

def asAdvance (b : Byte) : Option Advance :=
  match b.toNat with
  | 0 => some .triggered
  | 1 => some .timed
  | _ => none

def asEndAction (b : Byte) : Option EndAction :=
  match b.toNat with
  | 0 => some .live
  | 1 => some .hold
  | 2 => some .next
  | _ => none

/-- R83: what a SELECT request names. -/
inductive Selected where
  | choice (c : Choice)
  | mode (m : Mode)
  deriving DecidableEq, Repr

def asSelected (b : Byte) : Option Selected :=
  match b.toNat with
  | 0 => some (.choice .primary)
  | 1 => some (.choice .backup)
  | 2 => some (.mode .script)
  | 3 => some (.mode .live)
  | _ => none

/-- Section 11.3: the targets of a query. -/
inductive QueryTarget where
  | device | line | service | story | cue
  deriving DecidableEq, Repr

def asTarget (b : Byte) : Option QueryTarget :=
  match b.toNat with
  | 0 => some .device
  | 1 => some .line
  | 2 => some .service
  | 3 => some .story
  | 4 => some .cue
  | _ => none

/-- A slot entry: a service, or OPEN sent as 0xFF (R142, R151). -/
def asSlot (b : Byte) : Option (Option ServiceIx) :=
  if b = 0xFF#8 then some none else (asFin4 b).map some

/-- OK, or CLAMPED when a field was changed. -/
def okOr (clamped : Bool) : ReplyCode := if clamped then .clamped else .ok

/-- R152: a device record from a SET_DEVICE body, and whether a field was clamped. -/
def parseDevice (b : List Byte) : Except ReplyCode (DeviceRecord × Bool) :=
  match asFps (at1 b 0) with
  | none => .error .badValue
  | some fps =>
    let d := min 600 (num2 b 1)
    let a := min 14 (num1 b 3)
    .ok ({ fps := fps, delay := d, address := a }, d != num2 b 1 || a != num1 b 3)

/-- R16, R50 and the flush delay: a line record from a LOAD_LINE body. The line is checked before the fields,
where R16 and R153 give no order (log 19). An adaptive byte other than 0 and 1 refuses the request: that no
latency value does (R50) is read of L0, Lmin and Lmax (log 11). -/
def parseLine (b : List Byte) : Except ReplyCode (LineIx × LineRecord × Bool) :=
  match asFin4 (at1 b 0) with
  | none => .error .badIndex
  | some l =>
    match asFlag (at1 b 1), asRate (at1 b 2), asDataBits (at1 b 3), asParity (at1 b 4),
        asFlag (at1 b 5), asSubstitute (at1 b 6), asFlag (at1 b 14) with
    | some en, some rate, some bits, some par, some flow, some sub, some ad =>
      let fl := clampNat 1 250 (num1 b 7)
      let l0 := min 511 (num2 b 8)
      let lmin := min 511 (num2 b 10)
      let lmax := max lmin (min 511 (num2 b 12))
      .ok (l,
        { enabled := en, rate := rate, dataBits := bits, parity := par, flow := flow,
          substitute := sub, flushDelay := fl, l0 := l0, lmin := lmin, lmax := lmax, adaptive := ad },
        fl != num1 b 7 || l0 != num2 b 8 || lmin != num2 b 10 || lmax != num2 b 12)
    | _, _, _, _, _, _, _ => .error .badValue

/-- R71: the signed service offset, one byte in two's complement (R151), held to −64 to +64. -/
def clampSofs (n : Int) : Int := max (-64) (min 64 n)

/-- R71: a service record from a LOAD_SERVICE body. The service number is checked before the fields, where R71
gives no order (log 19). -/
def parseService (b : List Byte) : Except ReplyCode (ServiceIx × ServiceRecord × Bool) :=
  match asFin4 (at1 b 0) with
  | none => .error .badIndex
  | some v =>
    match asFlag (at1 b 1), asLine (at1 b 2), asLine (at1 b 3), asDisplay (at1 b 4) with
    | some en, some pri, some bak, some disp =>
      if pri.isSome && pri == bak then .error .badValue
      else
        let w := clampNat 16 42 (num1 b 5)
        let rows := clampNat 1 3 (num1 b 6)
        let r := clampNat 8 30 (num1 b 7)
        let dmin := clampNat 12 250 (num2 b 8)
        let dmax := max dmin (min 1500 (num2 b 10))
        let hh := clampNat 12 250 (num2 b 12)
        let tcl := clampOff (num2 b 14)
        let fs := clampOff (num2 b 16)
        let fh := min 6000 (num2 b 18)
        let sofs := clampSofs (at1 b 20).toInt
        let pr := min 3 (num1 b 21)
        let g := clampNat 5 250 (num1 b 22)
        .ok (v,
          { enabled := en, primary := pri, backup := bak, display := disp, width := w, rows := rows,
            readingRate := r, dmin := dmin, dmax := dmax, holdLimit := hh, tclear := tcl, fs := fs,
            fh := fh, sofs := sofs, priority := pr, gap := g },
          w != num1 b 5 || rows != num1 b 6 || r != num1 b 7 || dmin != num2 b 8 ||
            dmax != num2 b 10 || hh != num2 b 12 || tcl != num2 b 14 || fs != num2 b 16 ||
            fh != num2 b 18 || sofs != (at1 b 20).toInt || pr != num1 b 21 || g != num1 b 22)
    | _, _, _, _ => .error .badValue

/-- R142: a slot map from a LOAD_SLOTMAP body. -/
def parseSlots (b : List Byte) : Option SlotMap :=
  match asSlot (at1 b 0), asSlot (at1 b 1), asSlot (at1 b 2), asSlot (at1 b 3), asSlot (at1 b 4),
      asSlot (at1 b 5), asSlot (at1 b 6), asSlot (at1 b 7), asSlot (at1 b 8), asSlot (at1 b 9),
      asSlot (at1 b 10), asSlot (at1 b 11) with
  | some a0, some a1, some a2, some a3, some a4, some a5, some a6, some a7, some a8, some a9,
      some a10, some a11 => some #v[a0, a1, a2, a3, a4, a5, a6, a7, a8, a9, a10, a11]
  | _, _, _, _, _, _, _, _, _, _, _, _ => none

/-- R62: a GPI record from a LOAD_GPI body. The index is checked before the fields, where R62 gives no order
(log 19). -/
def parseGpi (b : List Byte) : Except ReplyCode (InputIx × GpiRecord × Bool) :=
  match asFin8 (at1 b 0) with
  | none => .error .badIndex
  | some i =>
    match asFunction (at1 b 1), asFin4 (at1 b 2), asFlag (at1 b 3) with
    | some f, some v, some hi =>
      .ok (i, { function := f, target := v, activeHigh := hi, nr := min 7 (num1 b 4) },
        min 7 (num1 b 4) != num1 b 4)
    | _, _, _ => .error .badValue

/-- R88 step 4 and the clamps: the story record of a LOAD_STORY body, after steps 1 to 3. -/
def parseStory (b : List Byte) : Except ReplyCode (Story × Bool) :=
  let c := num1 b 3
  let n := num2 b 4
  let ring := if at1 b 6 = 0xFF#8 then none else some (num1 b 6)
  let next := if at1 b 9 = 0xFF#8 then none else some (num1 b 9)
  if c = 0 ∨ 64 < c then .error .badValue
  else if ring.any (fun p => decide (c ≤ p)) then .error .badValue
  else
    match asAdvance (at1 b 7), asEndAction (at1 b 8), asFlag (at1 b 10) with
    | some adv, some act, some note =>
      if act = .next ∧ ¬ next.any (fun k => decide (k ≤ 63)) then .error .badValue
      else
        let n' := if ring.isNone then c else max 1 n
        .ok ({ first := num2 b 1, count := c, transfer := n', ring := ring, advance := adv,
               endAction := act, next := if act = .next then next else none, endNotice := note },
          n' != n)
    | _, _, _ => .error .badValue

/-- Note 1 of section 7.1: a glyph of a cue text. -/
def isCueGlyph (b : Byte) : Bool :=
  (decide (0x20 ≤ b.toNat) && decide (b.toNat ≤ 0x7E)) || decide (0xA0 ≤ b.toNat)

/-- R89: no two row breaks stand together. -/
def noDoubleBreak : List Byte → Bool
  | [] => true
  | [_] => true
  | a :: b :: rest => !(a == 0x0A#8 && b == 0x0A#8) && noDoubleBreak (b :: rest)

/-- R89: the checks of a cue text, MALFORMED before BAD_VALUE as R89 names them; it gives no order (log 19). -/
def checkText (t : List Byte) : Option ReplyCode :=
  let n := t.countP isCueGlyph
  if n = 0 ∨ Config.cueGlyphLimit < n then some .malformed
  else if !(t.all fun b => isCueGlyph b || b == 0x0A#8) || t.head? == some 0x0A#8 ||
      t.getLast? == some 0x0A#8 || !noDoubleBreak t then some .badValue
  else none

end Sys2Proof.Machine
end

