-- ==== Sys2Proof/Machine/Flags.lean ====
section
/-! DEFINITION. What is read off the state: attached lines, routing, silence, the paths of entries,
costs and room, eligibility, allowances, and which story a runner holds. -/

namespace Sys2Proof.Machine

/-! ### Lines of a service (00_scope section 3.1, 06 section 6.2) -/

/-- The attached line of a service: the live line that its live choice names. -/
def attachedLine (x : Service) : Option LineIx :=
  match x.sel.choice with
  | .primary => x.record.primary
  | .backup => x.record.backup

/-- The other live line of a service. -/
def otherLine (x : Service) : Option LineIx :=
  match x.sel.choice with
  | .primary => x.record.backup
  | .backup => x.record.primary

/-- The line is the primary or backup line of the enabled service (R72). -/
def hasLine (x : Service) (l : LineIx) : Bool :=
  x.record.enabled && (x.record.primary == some l || x.record.backup == some l)

/-- The enabled service that a line feeds, if any (R40, R72). -/
def feeds (s : State) (l : LineIx) : Option ServiceIx :=
  fours.find? fun v => hasLine (s.service v) l

/-- The enabled service whose attached line this line is, if any (R29). -/
def attachedService (s : State) (l : LineIx) : Option ServiceIx :=
  fours.find? fun v => (s.service v).record.enabled && attachedLine (s.service v) == some l

/-- R40: where routing sends what a line completes. -/
inductive Route where
  | queue (v : ServiceIx)
  | standby (v : ServiceIx)
  | discard
  deriving DecidableEq, Repr

/-- R40: the routing of a line as the service records and runtime state stand. -/
def route (s : State) (l : LineIx) : Route :=
  match feeds s l with
  | none => .discard
  | some v =>
    if attachedLine (s.service v) == some l then
      match (s.service v).sel.mode with
      | .live => .queue v
      | .script => .discard
    else .standby v

/-- R76: a line's silence, PFN minus its activity stamp. -/
def silenceOf (s : State) (l : LineIx) : Int := frameDiff (s.line l).stamp s.pfn

/-- The assembler of the line is stalled (R41). -/
def stalled (s : State) (l : LineIx) : Bool := (s.line l).asm.held.isSome

/-! ### Words and entries -/

/-- Section 3.3: the substituted flag, set when any glyph carries the errored mark. -/
def substituted (w : WordRecord) : Bool := w.glyphs.any KeyedGlyph.errored

/-- R105: the arrival frame of an entry. -/
def arrivalOf : EntryBody → Frame
  | .word w => w.arrival
  | .clear _ a => a
  | .cue _ _ _ a => a

/-- R51: the scheduling latency, Lest divided by 8 and rounded to nearest, halves up. -/
def lsel (x : Line) : Nat := (x.lat.lest + 4) / 8

/-- R112: the entry leaves on the pop-on path under the display mode. -/
def popOnPath (d : Display) : EntryBody → Bool
  | .cue .. => true
  | .word _ => decide (d = .popOn)
  | .clear .. => decide (d = .popOn)

/-! ### Units and room (R140) -/

/-- Section 10.1: the cost of a unit in bytes. -/
def unitCost (u : OutUnit) : Nat :=
  match u.kind with
  | .glyphs gs => 2 + gs.length
  | _ => 1

def unitsCost (us : List OutUnit) : Nat := (us.map unitCost).sum

/-- R140: the bytes held by an output FIFO. -/
def bytesHeld (om : Carriage) : Nat := unitsCost om.fifo

/-- R140: the free room of an output FIFO. -/
def freeRoom (om : Carriage) : Nat := Config.fifoCapacity - bytesHeld om

/-- A unit with no not-before frame and no story tag. -/
def plainUnit (k : UnitKind) : OutUnit := { kind := k, notBefore := none, story := none }

/-- The CLEAR unit that a mute, a restart or a CLEAR request appends. -/
def clearUnit : OutUnit := plainUnit .clear

/-- R144: a unit may leave in the packet of frame n. -/
def eligible (n : Frame) (u : OutUnit) : Bool :=
  match u.notBefore with
  | none => true
  | some f => atOrBefore f n

/-- R143: the allowance of a service under the map in force. -/
def allowance (s : State) (v : ServiceIx) : Nat :=
  if (s.service v).record.enabled then Config.slotSize * s.slotMap.toList.count (some v) else 0

/-! ### Stories (R87) -/

/-- R87: every cue record of the story is loaded. -/
def cuesLoaded (s : State) (st : Story) : Bool :=
  (List.range st.count).all fun p => (storeGet (st.first + p) s.cues).isSome

/-- R87: the story is loaded and each of its cues is. -/
def storyComplete (s : State) (k : Nat) : Bool :=
  match storeGet k s.stories with
  | none => false
  | some st => cuesLoaded s st

/-- R87: the runner of the service holds the story. -/
def holdsStory (r : Runner) (k : Nat) : Bool := decide (r.phase ≠ .idle) && r.story == some k

/-- R87: the service whose runner holds the story, if any. -/
def holderOf (s : State) (k : Nat) : Option ServiceIx :=
  fours.find? fun v => holdsStory (s.service v).runner k

/-- R98: a runner other than that of v holds the story. -/
def heldElsewhere (s : State) (v : ServiceIx) (k : Nat) : Bool :=
  fours.any fun u => decide (u ≠ v) && holdsStory (s.service u).runner k

/-- R89: the cue lies within the positions of a story held by a runner. -/
def cueLocked (s : State) (k : Nat) : Bool :=
  fours.any fun v =>
    let r := (s.service v).runner
    decide (r.phase ≠ .idle) &&
      match r.story with
      | none => false
      | some j =>
        match storeGet j s.stories with
        | none => false
        | some st => decide (st.first ≤ k) && decide (k < st.first + st.count)

end Sys2Proof.Machine
end

