-- ==== Sys2Proof/Machine/Latency.lean ====
section
/-! DEFINITION. The latency tracker (chapter 4): onsets, first words, pairing, and the estimate. -/

namespace Sys2Proof.Machine

/-- R52: an onset put in its place in frame order. -/
def insertFrame (o : Frame) : List Frame → List Frame
  | [] => [o]
  | p :: ps => if strictlyBefore o p then o :: p :: ps else p :: insertFrame o ps

/-- R52: an onset offered to the list of an enabled service. -/
def admitOnset (o : Frame) (x : Onsets) : Onsets :=
  if x.frames.contains o then x
  else if x.frames.length < Config.onsetCapacity then
    { x with frames := insertFrame o x.frames, admitted := bump x.admitted }
  else
    match x.frames with
    | [] => x
    | p :: ps =>
      if strictlyBefore p o then
        { x with frames := insertFrame o ps, admitted := bump x.admitted, dropped := bump x.dropped }
      else { x with dropped := bump x.dropped }

/-- R52: an onset offered to a service; a disabled service's is discarded. -/
def offerOnset (v : ServiceIx) (o : Frame) (s : State) : State :=
  if (s.service v).record.enabled then s.updOnsets v (admitOnset o) else s

/-- R53: the onsets older than 1023 frames are removed, each counted. -/
def expireOnsets (v : ServiceIx) (s : State) : State :=
  s.updOnsets v fun x =>
    { x with
      frames := x.frames.filter fun o => decide (frameDiff o s.pfn ≤ Config.onsetAgeLimit)
      expired := bumpBy x.expired
        (x.frames.countP fun o => decide (Config.onsetAgeLimit < frameDiff o s.pfn)) }

/-- R57: one sample moves the estimate an eighth of the way, at least one eighth of a frame. -/
def updateLest (lest sample : Nat) : Nat :=
  let d : Int := 8 * (sample : Int) - (lest : Int)
  let q := d.tdiv 8
  let step := if q = 0 then d.sign else q
  ((lest : Int) + step).toNat

/-- R56, R57: what a paired sample does to the latency state of a line. -/
def takeSample (adaptive : Bool) (sample : Nat) (x : Latency) : Latency :=
  { x with
    lastSample := some sample
    samples := bump x.samples
    lest := if adaptive then updateLest x.lest sample else x.lest
    firstWord := false }

/-- R56: a word with arrival frame a, that carries its line's first-word mark and has joined the cue
queue of v, is paired with v's onset list. -/
def pairOnset (l : LineIx) (v : ServiceIx) (a : Frame) (s : State) : State :=
  let r := (s.line l).record
  let on := (s.service v).onsets
  let live := on.frames.filter fun o => !strictlyBefore o (moved a (-(r.lmax : Int)))
  let stale := on.frames.countP fun o => strictlyBefore o (moved a (-(r.lmax : Int)))
  let s1 := s.updOnsets v fun x => { x with frames := live, expired := bumpBy x.expired stale }
  match live with
  | o :: rest =>
    if atOrBefore o (moved a (-(r.lmin : Int))) then
      (s1.updOnsets v fun x => { x with frames := rest }).updLat l
        (takeSample r.adaptive (frameDiff o a).toNat)
    else s1.updLat l fun x => { x with unpaired := bump x.unpaired, firstWord := false }
  | [] => s1.updLat l fun x => { x with unpaired := bump x.unpaired, firstWord := false }

/-- R56: pairing takes place when the line's first-word mark is set. -/
def pairIfMarked (l : LineIx) (v : ServiceIx) (a : Frame) (s : State) : State :=
  if (s.line l).lat.firstWord then pairOnset l v a s else s

/-- R54: a completed word is a first word. The test applies to a word routed to the cue queue of a
service, that is neither a retracted word completed again nor substituted. -/
def isFirstWord (s : State) (l : LineIx) (w : WordRecord) (reopened : Bool) : Bool :=
  match route s l with
  | .queue v =>
    !reopened && !substituted w &&
      match (s.line l).lat.lastCompletion with
      | none => true
      | some f => decide (((s.service v).record.gap : Int) ≤ frameDiff f s.pfn)
  | _ => false

/-- R54: the first-word test at a completion, and the last completion frame after it. -/
def testFirstWord (l : LineIx) (w : WordRecord) (reopened : Bool) (s : State) : State :=
  s.updLat l fun x =>
    { x with firstWord := isFirstWord s l w reopened, lastCompletion := some s.pfn }

/-- R55: the mark of a line is cleared without pairing. -/
def clearMark (l : LineIx) (s : State) : State := s.updLat l fun x => { x with firstWord := false }

end Sys2Proof.Machine
end

