-- ==== Sys2Proof/Machine/Queue.lean ====
section
/-! DEFINITION. The cue queue (chapter 8): offers, target frames, lateness and departures. -/

namespace Sys2Proof.Machine

/-- R106: the latency term of an entry's raw target. -/
def latencyTerm (s : State) : EntryBody → Nat
  | .word w => lsel (s.line w.line)
  | .clear l _ => lsel (s.line l)
  | .cue .. => 0

/-- R106: the raw target, A − Lsel + D + Sofs, and A + D + Sofs for a CUE. -/
def rawTarget (s : State) (v : ServiceIx) (b : EntryBody) : Frame :=
  moved (arrivalOf b)
    ((s.device.delay : Int) + (s.service v).record.sofs - (latencyTerm s b : Int))

/-- R107: the floor frame Tprev: the T of the youngest entry, or the last-left frame. -/
def prevTarget (q : Scheduler) : Option Frame :=
  match q.queue.getLast? with
  | some e => some e.target
  | none => q.lastLeft

/-- A frame raised to a floor that may be absent. -/
def raised (a : Frame) : Option Frame → Frame
  | none => a
  | some f => latest a f

/-- R107, R109: the target frame of an entry that joins, with the T floor it is offered with. -/
def targetFrame (s : State) (v : ServiceIx) (b : EntryBody) (floor : Option Frame) : Frame :=
  raised (raised (latest (rawTarget s v b) (s.pfn + 1)) (prevTarget (s.service v).sched)) floor

/-- R110: the lateness of an entry. -/
def latenessOf (s : State) (v : ServiceIx) (b : EntryBody) (floor : Option Frame) : Int :=
  frameDiff (rawTarget s v b) (targetFrame s v b floor)

/-- R104: the queue has room for an entry. -/
def hasRoom (q : Scheduler) : Bool := decide (q.queue.length < Config.queueCapacity)

/-- R104, R110: an entry joins the tail and its lateness is recorded. -/
def join (b : EntryBody) (t : Frame) (late : Int) (q : Scheduler) : Scheduler :=
  { q with
    queue := q.queue ++ [{ body := b, target := t }]
    lastLateness := figure late
    maxLateness := maxFigure q.maxLateness (figure late) }

/-- R104: an entry is offered to the cue queue of v: it joins, or it is refused and counted. -/
def offer (v : ServiceIx) (b : EntryBody) (floor : Option Frame) (s : State) : Bool × State :=
  if hasRoom (s.service v).sched then
    (true, s.updSched v (join b (targetFrame s v b floor) (latenessOf s v b floor)))
  else (false, s.updSched v fun q => { q with fullRefusals := bump q.fullRefusals })

/-- R41: the assemblers whose held item waits on the queue of v owe a retry. -/
def oweRetry (v : ServiceIx) (x : Line) : Line :=
  match x.asm.held with
  | some h => if h.on = v then { x with asm := { x.asm with retryOwed := true } } else x
  | none => x

/-- R108, R41: an entry with target t has left the queue of v. -/
def departed (v : ServiceIx) (t : Frame) (s : State) : State :=
  let s1 := s.updSched v fun q => { q with lastLeft := some t }
  { s1 with lines := s1.lines.map (oweRetry v) }

/-- The head of the queue leaves by any path of section 8.3. -/
def dropHead (v : ServiceIx) (e : Entry) (s : State) : State :=
  departed v e.target (s.updSched v fun q => { q with queue := q.queue.tail })

/-- R44: the tail of the queue leaves by retraction. -/
def dropTail (v : ServiceIx) (e : Entry) (s : State) : State :=
  departed v e.target (s.updSched v fun q => { q with queue := q.queue.dropLast })

end Sys2Proof.Machine
end

