-- ==== Sys2Proof/Machine/RollUp.lean ====
section
/-! DEFINITION. Roll-up rows (09 section 9.2), the composition reset, and the appending of units. -/

namespace Sys2Proof.Machine

/-- R124: a word's text: its glyphs, after a speaker mark when it carries a speaker change. -/
def wordText (w : WordRecord) : List Byte :=
  (if w.speaker then [0x3E#8, 0x3E#8, 0x20#8] else []) ++ w.glyphs.map KeyedGlyph.glyph

/-- Units with no not-before frame and no story tag. -/
def plainUnits (ks : List UnitKind) : List OutUnit := ks.map plainUnit

/-- A list of rows with a separator between consecutive rows. -/
def joinRows (sep : UnitKind) : List Row → List UnitKind
  | [] => []
  | [r] => [.glyphs r]
  | r :: rs => .glyphs r :: sep :: joinRows sep rs

/-- What the composing of one word gives: the units and the builder's row state after it. -/
structure Composed where
  kinds : List UnitKind
  fill : Nat
  newRow : Bool
  deriving DecidableEq, Repr

/-- R124, R125: a word composed on a row state, the CLEAR of step 1 left aside. -/
def composeOn (width : Nat) (w : WordRecord) (fill : Nat) (newRow : Bool) : Composed :=
  let text := wordText w
  let len := text.length
  let turn := (w.speaker || w.breakBefore || newRow) && decide (0 < fill)
  let fill2 := if turn then 0 else fill
  let sep := if 0 < fill2 ∧ w.cont = false then 1 else 0
  let spill := decide (0 < fill2) && decide (width < fill2 + sep + len)
  let fill3 := if spill then 0 else fill2
  let sep3 := if spill then 0 else sep
  let rolls := (if turn then [UnitKind.roll] else []) ++ (if spill then [UnitKind.roll] else [])
  if len + sep3 ≤ width - fill3 then
    { kinds := rolls ++ [.glyphs ((if sep3 = 1 then [0x20#8] else []) ++ text)]
      fill := fill3 + sep3 + len, newRow := w.breakAfter }
  else
    let pieces := chunk width len text
    { kinds := rolls ++ joinRows .roll pieces
      fill := (pieces.getLast?.getD []).length, newRow := w.breakAfter }

/-- R124: a word composed by a builder: step 1 puts a CLEAR unit first when the form is not ROLLING. -/
def compose (width : Nat) (w : WordRecord) (b : Builder) : Composed :=
  if b.form = .rolling then composeOn width w b.fill b.newRow
  else
    let c := composeOn width w 0 false
    { c with kinds := .clear :: c.kinds }

/-- R124, R123: the builder after the word has been released at PFN. A CLEAR unit cancels the timer. -/
def afterCompose (pfn : Frame) (c : Composed) (b : Builder) : Builder :=
  { b with
    form := .rolling, fill := c.fill, newRow := c.newRow, lastRelease := some pfn
    timer := if b.form = .rolling then b.timer else .idle }

/-- R123: a composition reset. -/
def compositionReset (b : Builder) : Builder :=
  { b with form := .none, fill := 0, newRow := false, lastRelease := none }

/-- R140: units joined to the tail of an output FIFO. -/
def appendUnits (v : ServiceIx) (us : List OutUnit) (s : State) : State :=
  s.updOm v fun o => { o with fifo := o.fifo ++ us }

/-- R84, R86, R139: an output FIFO emptied, with one CLEAR unit appended. -/
def onlyClear (o : Carriage) : Carriage := { o with fifo := [clearUnit] }

end Sys2Proof.Machine
end

