-- ==== Sys2Proof/Machine/PopOn.lean ====
section
/-! DEFINITION. Pop-on blocks (09 sections 9.3 to 9.5): the open block, closings, cues in formation, the
block queue and its append to the output FIFO. -/

namespace Sys2Proof.Machine

/-! ### Closed blocks -/

/-- Section 9.1: the glyph count n of a block's rows. -/
def glyphCount (rows : List Row) : Nat := (rows.map List.length).sum

/-- R132: the display duration of n glyphs: the ceiling of n · FPS / R, between Dmin and Dmax. -/
def duration (s : State) (v : ServiceIx) (n : Nat) : Nat :=
  let r := (s.service v).record
  let fps := match s.device.fps with
    | .f24 => 24 | .f25 => 25 | .f30 => 30 | .f50 => 50 | .f60 => 60
  min r.dmax (max r.dmin ((n * fps + r.readingRate - 1) / r.readingRate))

/-- R133: S + dur of the youngest TEXT block in the block queue. -/
def queuedFloor : List Block → Option Frame
  | [] => none
  | .text b :: rest => (queuedFloor rest).orElse fun _ => some (moved b.showFrame b.dur)
  | .clearOnly .. :: rest => queuedFloor rest

/-- R133: the show-frame floor, when one exists. -/
def showFloor (b : Builder) : Option Frame :=
  match queuedFloor b.blocks with
  | some f => some f
  | none => b.shown.map fun p => moved p.1 p.2

/-- R128, R132, R133: a TEXT block closed at PFN. -/
def closedText (s : State) (v : ServiceIx) (rows : List Row) (tFirst : Frame) (story : Option Nat)
    (trailing : Option Frame) : TextBlock :=
  { rows := rows, tFirst := tFirst, closed := s.pfn, dur := duration s v (glyphCount rows)
    showFrame := raised (latest tFirst (s.pfn + 1)) (showFloor (s.service v).cb)
    story := story, trailing := trailing }

/-! ### The append of the block queue (R134) -/

/-- R134: the units of a TEXT block, when the display form stands as given. -/
def textUnits (form : Form) (b : TextBlock) : List OutUnit :=
  let tag (u : OutUnit) : OutUnit := { u with story := b.story }
  (if form = .block then [] else [{ kind := .clear, notBefore := some b.showFrame, story := b.story }])
    ++ (plainUnits (joinRows .newRow b.rows)).map tag
    ++ [{ kind := .showBlock, notBefore := some b.showFrame, story := b.story }]
    ++ match b.trailing with
      | none => []
      | some f => [{ kind := .clear, notBefore := some f, story := b.story }]

/-- R134: the units of a closed block. -/
def blockUnits (form : Form) : Block → List OutUnit
  | .text b => textUnits form b
  | .clearOnly nb _ _ => [{ kind := .clear, notBefore := some nb, story := none }]

/-- R134: the builder after its head block has been appended. -/
def afterAppend (b : Builder) : Block → Builder
  | .text t =>
    { b with
      blocks := b.blocks.tail, form := .block, shown := some (t.showFrame, t.dur)
      timer := if t.trailing.isNone then .waiting else .idle }
  | .clearOnly .. => { b with blocks := b.blocks.tail, timer := .idle }

/-- R134, R85: the head block is appended whole when it fits, or discarded under mute; none when there is
nothing to append or no room. -/
def appendHead (v : ServiceIx) (s : State) : Option State :=
  match (s.service v).cb.blocks with
  | [] => none
  | b :: _ =>
    if (s.service v).sel.muted then
      some ((s.updCb v fun c => { c with blocks := c.blocks.tail }).updSel v fun x =>
        { x with muteDiscards := bump x.muteDiscards })
    else
      let us := blockUnits (s.service v).cb.form b
      if unitsCost us ≤ freeRoom (s.service v).om then
        some ((appendUnits v us s).updCb v fun c => afterAppend c b)
      else none

/-- R134: heads are appended one after another; the first argument bounds their number. -/
def appendBlocks (v : ServiceIx) : Nat → State → State
  | 0, s => s
  | n + 1, s =>
    match appendHead v s with
    | none => s
    | some t => appendBlocks v n t

/-- R134: an attempt to append. -/
def attemptAppend (v : ServiceIx) (s : State) : State :=
  appendBlocks v (s.service v).cb.blocks.length s

/-- R134: the block queue has room for a closed block. -/
def blockRoom (b : Builder) : Bool := decide (b.blocks.length < Config.blockCapacity)

/-- R128, R130: a block joins the block queue, and the append is attempted. -/
def joinBlock (v : ServiceIx) (b : Block) (s : State) : State :=
  attemptAppend v (s.updCb v fun c => { c with blocks := c.blocks ++ [b] })

/-! ### Closing the open block (R128) -/

/-- The T_first of the open block: the T of its first word. -/
def tFirst (o : OpenBlock) : Option Frame := o.words.head?.map Placed.target

/-- R128, R129: the open block closes at once, with the trailing clear it is given (R130). -/
def closeNow (v : ServiceIx) (cause : CloseCause) (trailing : Option Frame) (s : State) : State :=
  let o := (s.service v).cb.openBlock
  match tFirst o with
  | none => s.updCb v fun c => { c with openBlock := emptyOpenBlock }
  | some t =>
    let b := closedText s v o.rows t none trailing
    joinBlock v (.text b) (s.updCb v fun c =>
      { c with
        openBlock := emptyOpenBlock
        blocksClosed := bump c.blocksClosed
        holdExpiries := if cause = .holdExpiry then bump c.holdExpiries else c.holdExpiries })

/-- R128: the open block closes, or its closing is pending when the block queue is full. The closing of an
empty open block does nothing. A closing that is already pending keeps its cause, so that a hold expiry is
counted when it is carried out (R129). -/
def closeOpen (v : ServiceIx) (cause : CloseCause) (s : State) : State :=
  let c := (s.service v).cb
  let first := c.openBlock.closing.getD cause
  if c.openBlock.words.isEmpty then s
  else if blockRoom c then closeNow v first none s
  else s.updCb v fun b => { b with openBlock := { b.openBlock with closing := some first } }

/-! ### Placing words (R127) -/

/-- R127 steps 2 and 3: the rows of an open block after a word that fits it. -/
def fitRows (width rowsMax : Nat) (w : WordRecord) (rows : List Row) : Option (List Row) :=
  let text := wordText w
  match rows.getLast? with
  | some r =>
    let sep : Row := if r.isEmpty || w.cont then [] else [0x20#8]
    if r.length + sep.length + text.length ≤ width then some (rows.dropLast ++ [r ++ sep ++ text])
    else if text.length ≤ width ∧ rows.length < rowsMax then some (rows ++ [text])
    else none
  | none => if text.length ≤ width ∧ 0 < rowsMax then some [text] else none

/-- A word put at the end of the open block, its rows as given. -/
def pushWord (w : WordRecord) (t : Frame) (whole : Bool) (rows : List Row) (o : OpenBlock) :
    OpenBlock :=
  { o with words := o.words ++ [{ word := w, target := t, before := o.rows, whole := whole }]
           rows := rows }

/-- A piece put on a row of its own; the word joins the open block with its first piece there. -/
def pushPiece (w : WordRecord) (t : Frame) (started whole : Bool) (p : Row) (o : OpenBlock) :
    OpenBlock :=
  if started then { o with rows := o.rows ++ [p] } else pushWord w t whole (o.rows ++ [p]) o

def updOpen (v : ServiceIx) (f : OpenBlock → OpenBlock) (s : State) : State :=
  s.updCb v fun c => { c with openBlock := f c.openBlock }

/-- R127 step 5 and the break-after: the pieces are placed one a row, the block closing when it has no row
left; pieces that meet a pending closing become the carry. -/
def placePieces (v : ServiceIx) (w : WordRecord) (t : Frame) :
    List Row → Bool → Bool → State → State
  | [], _, _, s => if w.breakAfter then closeOpen v .ordinary s else s
  | p :: ps, started, whole, s =>
    let o := (s.service v).cb.openBlock
    if o.rows.length < (s.service v).record.rows ∧ o.closing = none then
      placePieces v w t ps true whole (updOpen v (pushPiece w t started whole p) s)
    else
      let s1 := closeOpen v .ordinary s
      if ((s1.service v).cb.openBlock.closing).isSome then
        updOpen v (fun o1 => { o1 with carry := some { pieces := p :: ps, word := w, target := t } }) s1
      else
        placePieces v w t ps true (whole && !started)
          (updOpen v (pushPiece w t false (whole && !started) p) s1)

/-- R127 steps 2 to 5: a word placed in the open block. -/
def placeWord (v : ServiceIx) (w : WordRecord) (t : Frame) (s : State) : State :=
  let r := (s.service v).record
  match fitRows r.width r.rows w (s.service v).cb.openBlock.rows with
  | some rows =>
    let s1 := updOpen v (pushWord w t true rows) s
    if w.breakAfter then closeOpen v .ordinary s1 else s1
  | none =>
    let text := wordText w
    let pieces := if text.length ≤ r.width then [text] else chunk r.width text.length text
    placePieces v w t pieces false true (closeOpen v .ordinary s)

/-- R129, R138: the open block holds a word and is to close by hold expiry: PFN is at or after its T_first
plus Hh, or the expiry has met the take of a word in it. -/
def holdPassed (s : State) (v : ServiceIx) : Bool :=
  let x := s.service v
  match tFirst x.cb.openBlock with
  | none => false
  | some t => x.cb.openBlock.expiring || atOrBefore (moved t x.record.holdLimit) s.pfn

/-- R138: the hold expiry of the open block is due at this frame start and has not been taken. -/
def expiryMeets (s : State) (v : ServiceIx) : Bool :=
  s.due.contains (.blockHold v) && holdPassed s v

/-- R138: the expiry still to be taken closes the block that holds the word just placed, if any does. -/
def markExpiring (v : ServiceIx) (s : State) : State :=
  updOpen v (fun o => { o with expiring := !o.words.isEmpty }) s

/-- R127, R138: a WORD taken on the pop-on path. -/
def takeWord (v : ServiceIx) (w : WordRecord) (t : Frame) (s : State) : State :=
  let s1 := placeWord v w t (if w.speaker || w.breakBefore then closeOpen v .ordinary s else s)
  if expiryMeets s v then markExpiring v s1 else s1

/-! ### Taken CLEAR and CUE entries -/

/-- R130: the youngest block takes the trailing clear. -/
def trailYoungest (t : Frame) (bs : List Block) : List Block :=
  match bs.getLast? with
  | some (.text b) => bs.dropLast ++ [.text { b with trailing := some t }]
  | _ => bs

/-- R130: a CLEAR taken on the pop-on path. -/
def takeClear (v : ServiceIx) (t : Frame) (s : State) : State :=
  let c := (s.service v).cb
  if !c.openBlock.words.isEmpty then closeNow v .ordinary (some t) s
  else
    match c.blocks.getLast? with
    | some (.text b) =>
      if b.story.isNone then
        if b.trailing.isNone then s.updCb v fun x => { x with blocks := trailYoungest t x.blocks }
        else s
      else joinBlock v (.clearOnly t t s.pfn) s
    | _ => joinBlock v (.clearOnly t t s.pfn) s

/-- R131: a cue text laid out in rows. -/
def cueRows (width : Nat) (text : List Byte) : List Row :=
  (segments text).flatMap fun seg => chunk width seg.length seg

/-- R131: a CUE taken on the pop-on path: the open block closes and the cue is in formation. -/
def takeCue (v : ServiceIx) (story index : Nat) (text : List Byte) (t : Frame) (s : State) : State :=
  let s1 := closeOpen v .ordinary s
  let r := (s.service v).record
  let rows := cueRows r.width text
  let groups := chunk r.rows rows.length rows
  s1.updCb v fun c =>
    { c with cue :=
        if groups.isEmpty then none
        else some { story := story, index := index, target := t, groups := groups } }

/-! ### What the builder does when the block queue has room (R116, R128, R131) -/

/-- R128: a pending closing is carried out, and the carry is placed, its pieces as they were cut (log 12).
An expiry that has met the take of the carried word goes on to the block that now holds it (R138). -/
def carryOutClosing (v : ServiceIx) (s : State) : Option State :=
  let c := (s.service v).cb
  match c.openBlock.closing with
  | none => none
  | some cause =>
    if blockRoom c then
      let s1 := closeNow v cause none s
      match c.openBlock.carry with
      | none => some s1
      | some k =>
        let s2 := placePieces v k.word k.target k.pieces false false s1
        some (if c.openBlock.expiring then markExpiring v s2 else s2)
    else none

/-- R131: the cue in formation forms its next block. -/
def formBlock (v : ServiceIx) (s : State) : Option State :=
  let c := (s.service v).cb
  match c.cue with
  | none => none
  | some k =>
    if c.openBlock.closing.isSome || !blockRoom c then none
    else
      match k.groups with
      | [] => some (s.updCb v fun b => { b with cue := none })
      | g :: gs =>
        let b := closedText s v g k.target (some k.story) none
        some (joinBlock v (.text b) (s.updCb v fun x =>
          { x with
            cue := if gs.isEmpty then none else some { k with groups := gs }
            blocksClosed := bump x.blocksClosed }))

/-- R116: the builder takes the head of the queue, when it is on the pop-on path and the block queue has
room. -/
def takeHead (v : ServiceIx) (s : State) : Option State :=
  let x := s.service v
  if x.record.enabled && x.cb.openBlock.closing.isNone && x.cb.cue.isNone && blockRoom x.cb then
    match x.sched.queue with
    | [] => none
    | e :: _ =>
      if popOnPath x.record.display e.body then
        let s1 := dropHead v e s
        match e.body with
        | .word w => some (takeWord v w e.target s1)
        | .clear _ _ => some (takeClear v e.target s1)
        | .cue st ix text _ => some (takeCue v st ix text e.target s1)
      else none
  else none

/-! ### Frame-start checks of the builder -/

/-- R129, R138: the hold-expiry check of the open block. A closing that is already pending is left as it is
(log 12). -/
def checkHold (v : ServiceIx) (s : State) : State :=
  let s1 := updOpen v (fun o => { o with expiring := false }) s
  if (s.service v).cb.openBlock.closing.isNone && holdPassed s v then closeOpen v .holdExpiry s1
  else s1

/-- R126: the stale-clear check passes. -/
def staleDue (s : State) (v : ServiceIx) : Bool :=
  let x := s.service v
  x.record.enabled && decide (x.record.tclear ≠ 0) && decide (x.cb.form = .rolling) &&
    decide (0 < x.cb.fill) &&
    match x.cb.lastRelease with
    | none => false
    | some f => decide ((x.record.tclear : Int) ≤ frameDiff f s.pfn)

/-- R126: the stale clear. -/
def checkStale (v : ServiceIx) (s : State) : State :=
  if staleDue s v && decide (1 ≤ freeRoom (s.service v).om) then
    (appendUnits v [clearUnit] s).updCb v fun c =>
      { c with fill := 0, newRow := false, timer := .idle, timedClears := bump c.timedClears }
  else s

/-- R136: the Dmax clear. -/
def checkDmax (v : ServiceIx) (s : State) : State :=
  match (s.service v).cb.timer with
  | .running due =>
    if atOrBefore due s.pfn && decide (1 ≤ freeRoom (s.service v).om) then
      (appendUnits v [clearUnit] s).updCb v fun c =>
        { c with timer := .idle, timedClears := bump c.timedClears }
    else s
  | _ => s

/-! ### Departures and clears -/

/-- R135: a SHOW with not-before frame f has left in the packet of frame n; `last` when no SHOW is left
behind it. A waiting timer waits for that one. -/
def showLeft (v : ServiceIx) (f n : Frame) (last : Bool) (s : State) : State :=
  let dmax := (s.service v).record.dmax
  s.updCb v fun c =>
    { c with
      slips := if strictlyBefore f n then bump c.slips else c.slips
      timer := if c.timer = .waiting ∧ last = true then .running (moved f dmax) else c.timer }

/-- R139, R153: what the CLEAR request and a CLEAR input do. -/
def clearService (v : ServiceIx) (s : State) : State :=
  (s.updCb v fun c =>
    compositionReset { c with blocks := [], cue := none, shown := none, timer := .idle }).updOm v
      onlyClear

/-- R84: a mute begins. -/
def beginMute (v : ServiceIx) (s : State) : State :=
  if (s.service v).sel.muted then s
  else
    ((s.updSel v fun x => { x with muted := true }).updCb v fun c =>
      compositionReset { c with timer := .idle }).updOm v onlyClear

/-- R84: a mute ends. -/
def endMute (v : ServiceIx) (s : State) : State :=
  s.updSel v fun x => { x with muted := false }

end Sys2Proof.Machine
end

