-- ==== Sys2Proof/Machine/Runner.lean ====
section
/-! DEFINITION. The story runner (chapter 7) and the service's mode (R82). -/

namespace Sys2Proof.Machine

/-! ### Modes (R82, R99) -/

/-- R99: the runner is told that its service enters SCRIPT mode. -/
def onEnterScript (r : Runner) : Runner :=
  if r.phase = .suspended then { r with phase := .running, timingHeld := true } else r

/-- R99: the runner is told that its service leaves SCRIPT mode. -/
def onLeaveScript (r : Runner) : Runner :=
  if r.phase = .running then { r with phase := .suspended } else r

/-- R82: the mode of a service changes; a change to the mode in force does nothing. After a return to LIVE
the silence check waits for the next frame start. -/
def setMode (v : ServiceIx) (m : Mode) (s : State) : State :=
  if (s.service v).sel.mode = m then s
  else
    match m with
    | .script => (s.updSel v fun x => { x with mode := .script }).updRunner v onEnterScript
    | .live =>
      (s.updSel v fun x => { x with mode := .live, awaitsFrame := true }).updRunner v onLeaveScript

/-! ### Idle, armed -/

/-- R90: a runner in IDLE; the counts are kept. -/
def idleRunner (r : Runner) : Runner :=
  { r with phase := .idle, story := none, pointer := 0, remaining := 0, lastCueT := none,
           nextBase := none, timingHeld := false }

/-- R91, R98: a runner armed on a story. -/
def armRunner (k : Nat) (st : Story) (r : Runner) : Runner :=
  { r with phase := .armed, story := some k, pointer := 0, remaining := st.transfer,
           lastCueT := none, nextBase := none, timingHeld := false }

/-! ### End actions (R97, R98) -/

/-- R97: the STORY_END notice, when the story asks for it. -/
def noteEnd (v : ServiceIx) (k : Nat) (st : Story) (s : State) : State :=
  if st.endNotice then raise (.storyEnd v k st.endAction s.pfn none) s else s

/-- R98: the next story may be armed by the runner of v. -/
def chainable (s : State) (v : ServiceIx) (k : Nat) : Bool :=
  storyComplete s k && !heldElsewhere s v k

/-- R98: the NEXT end action. -/
def chainTo (v : ServiceIx) (k : Nat) (st : Story) (n : Nat) (s : State) : State :=
  match storeGet n s.stories with
  | some st' =>
    if chainable s v n then (noteEnd v k st s).updRunner v (armRunner n st')
    else raise (.storyEnd v k st.endAction s.pfn (some n)) (s.updRunner v idleRunner)
  | none => raise (.storyEnd v k st.endAction s.pfn (some n)) (s.updRunner v idleRunner)

/-- R97: the end action of story k. -/
def endStory (v : ServiceIx) (k : Nat) (st : Story) (s : State) : State :=
  match st.endAction with
  | .live => setMode v .live ((noteEnd v k st s).updRunner v idleRunner)
  | .hold => (noteEnd v k st s).updRunner v idleRunner
  | .next =>
    match st.next with
    | some n => chainTo v k st n s
    | none => s.updRunner v idleRunner

/-! ### Issuing a cue (R93, R94, R96) -/

/-- R94: the cue pointer after the cue at p has been issued. -/
def nextPointer (st : Story) (p : Nat) : Nat :=
  if p + 1 < st.count then p + 1
  else
    match st.ring with
    | some r => r
    | none => p

/-- R93, R94, R96: the runner after issuing a cue with target t, before any end action. -/
def afterIssue (st : Story) (interval : Nat) (t : Frame) (r : Runner) : Runner :=
  { r with
    phase := .running
    pointer := nextPointer st r.pointer
    remaining := r.remaining - 1
    lastCueT := some t
    nextBase := if st.advance = .timed then some (moved t interval) else none
    timingHeld := false
    issued := bump r.issued }

/-- R93: the story and cue that the runner of v would issue. -/
def cueAtPointer (s : State) (v : ServiceIx) : Option (Nat × Story × Cue) :=
  let r := (s.service v).runner
  match r.story with
  | none => none
  | some k =>
    match storeGet k s.stories with
    | none => none
    | some st =>
      match storeGet (st.first + r.pointer) s.cues with
      | none => none
      | some c => some (k, st, c)

/-- R104: the CUE entry of a runner that finds the queue full is refused and counted (log 8). -/
def cueRefused (v : ServiceIx) (s : State) : State :=
  if hasRoom (s.service v).sched then s
  else s.updSched v fun q => { q with fullRefusals := bump q.fullRefusals }

/-- R93: one cue is issued with arrival frame a; none when the cue queue is full. -/
def issueCue (v : ServiceIx) (a : Frame) (s : State) : Option State :=
  match cueAtPointer s v with
  | none => none
  | some (k, st, c) =>
    let b : EntryBody := .cue k (st.first + (s.service v).runner.pointer) c.text a
    if hasRoom (s.service v).sched then
      let t := targetFrame s v b none
      let s1 := (offer v b none s).2.updRunner v (afterIssue st c.interval t)
      if (s1.service v).runner.remaining = 0 then some (endStory v k st s1) else some s1
    else none

/-- R92: the runner takes triggers: ARMED or RUNNING, and the service in SCRIPT mode. -/
def takesTrigger (x : Service) : Bool :=
  (decide (x.runner.phase = .armed) || decide (x.runner.phase = .running)) &&
    decide (x.sel.mode = .script)

/-- R92, R93: a trigger from a studio input or from the line command 'N'. -/
def trigger (v : ServiceIx) (a : Frame) (s : State) : State :=
  if takesTrigger (s.service v) then
    match issueCue v a s with
    | some t => t
    | none => (cueRefused v s).updRunner v fun r => { r with lost := bump r.lost }
  else s.updRunner v fun r => { r with ignored := bump r.ignored }

/-! ### Timed issue (R95) -/

/-- R95: the due frame of the next timed cue. -/
def dueFrame (s : State) (v : ServiceIx) (base : Frame) : Frame :=
  moved base (-((s.device.delay : Int) + (s.service v).record.sofs))

/-- R95: the story of the runner is TIMED. -/
def timedStory (s : State) (r : Runner) : Bool :=
  match r.story with
  | none => false
  | some k =>
    match storeGet k s.stories with
    | none => false
    | some st => decide (st.advance = .timed)

/-- R95: the timed check of a runner, against the next base as it stands: a trigger taken first at the same
frame start has set it, and its due frame can have come already, of which R102 does not speak (log 20). -/
def checkTimed (v : ServiceIx) (s : State) : State :=
  let r := (s.service v).runner
  match r.nextBase with
  | none => s
  | some base =>
    if decide (r.phase = .running) && timedStory s r && !r.timingHeld &&
        atOrBefore (dueFrame s v base) s.pfn then
      match issueCue v (dueFrame s v base) s with
      | some t => t
      | none => (cueRefused v s).updRunner v fun x => { x with deferrals := bump x.deferrals }
    else s

/-! ### Cancel and drain (R100, R101) -/

/-- R100: the entry is a CUE entry of the story. -/
def isCueOf (k : Nat) (e : Entry) : Bool :=
  match e.body with
  | .cue st _ _ _ => st == k
  | _ => false

/-- R100: the block carries the story's tag. -/
def isBlockOf (k : Nat) : Block → Bool
  | .text b => b.story == some k
  | .clearOnly .. => false

/-- R100: the story's CUE entries leave the cue queue, head first. -/
def removeCues (v : ServiceIx) (k : Nat) (s : State) : State :=
  match ((s.service v).sched.queue.filter (isCueOf k)).getLast? with
  | none => s
  | some e =>
    departed v e.target
      (s.updSched v fun q => { q with queue := q.queue.filter fun x => !isCueOf k x })

/-- R100: the story's blocks not yet appended, and its cue in formation, are removed. -/
def removeBlocks (v : ServiceIx) (k : Nat) (s : State) : State :=
  s.updCb v fun c =>
    { c with
      blocks := c.blocks.filter fun b => !isBlockOf k b
      cue := match c.cue with
        | some f => if f.story = k then none else some f
        | none => none }

/-- R101: the output FIFO holds no unit of the story. -/
def drained (o : Carriage) (k : Nat) : Bool := o.fifo.all fun u => u.story != some k

/-- R101: the drain check of a DRAINING runner. -/
def drainCheck (v : ServiceIx) (s : State) : State :=
  let x := s.service v
  match x.runner.story with
  | some k =>
    if decide (x.runner.phase = .draining) && drained x.om k then
      raise (.storyDrained v k s.pfn) (s.updRunner v idleRunner)
    else s
  | none => s

/-- R100: the runner enters DRAINING, with the removals and one drain check. -/
def startDrain (v : ServiceIx) (k : Nat) (s : State) : State :=
  drainCheck v (removeBlocks v k (removeCues v k
    (s.updRunner v fun r => { r with phase := .draining, nextBase := none })))

end Sys2Proof.Machine
end

