-- ==== Sys2Proof/Machine/Assembler.lean ====
section
/-! DEFINITION. The word assembler (chapter 3) and the steno decoder (02 section 2.5). -/

namespace Sys2Proof.Machine

/-! ### Routing a completed item (R40, R41) -/

/-- R40: a word or marker is discarded and counted as unrouted. -/
def unrouted (l : LineIx) (s : State) : State :=
  s.updAsm l fun a => { a with unrouted := bump a.unrouted }

/-- R74: a word joins the standby hold, the oldest leaving a full one. -/
def joinStandby (w : WordRecord) (x : Selection) : Selection :=
  if x.standby.length < Config.standbyCapacity then { x with standby := x.standby ++ [w] }
  else
    { x with standby := x.standby.tail ++ [w], standbyDropped := bump x.standbyDropped }

/-- R41: an item becomes the held item of the line, waiting on the queue of v. -/
def holdItem (l : LineIx) (i : HeldItem) (v : ServiceIx) (s : State) : State :=
  s.updAsm l fun a => { a with held := some { item := i, on := v } }

/-- R40: a completed word is routed. -/
def routeWord (l : LineIx) (w : WordRecord) (s : State) : State :=
  match route s l with
  | .queue v =>
    let r := offer v (.word w) w.floor s
    if r.1 then pairIfMarked l v w.arrival r.2 else holdItem l (.word w) v r.2
  | .standby v => s.updSel v (joinStandby w)
  | .discard => unrouted l s

/-- R40, R42: a CLEAR marker with arrival frame a is routed. -/
def routeMarker (l : LineIx) (a : Frame) (s : State) : State :=
  match route s l with
  | .queue v =>
    let r := offer v (.clear l a) none s
    if r.1 then r.2 else holdItem l (.marker a) v r.2
  | _ => unrouted l s

/-! ### Completing a word (R39) -/

/-- R39: the record of the word under assembly, completed at PFN; `breakAfter` when 'P' did it. -/
def formRecord (l : LineIx) (pfn : Frame) (breakAfter : Bool) (a : Assembler) : WordRecord :=
  { glyphs := a.glyphs, line := l
    arrival := match a.retracted with
      | some r => r.arrival
      | none => pfn
    speaker := a.speakerPending || a.carriedSpeaker
    breakBefore := a.breakPending || a.carriedBreak
    breakAfter := breakAfter, cont := a.carriedCont
    floor := a.retracted.map Retracted.floor }

/-- R39: the assembler after a completion. -/
def afterCompletion (a : Assembler) : Assembler :=
  { a with
    glyphs := [], first := none, retracted := none, carriedSpeaker := false, carriedBreak := false
    carriedCont := false, speakerPending := false, breakPending := false
    completed := bump a.completed }

/-- R39, R54, R40: the word under assembly is completed and handed to routing. -/
def completeWord (l : LineIx) (breakAfter : Bool) (s : State) : State :=
  let a := (s.line l).asm
  let w := formRecord l s.pfn breakAfter a
  routeWord l w (testFirstWord l w a.retracted.isSome (s.updAsm l afterCompletion))

/-- R37: completion as 'F' makes it: when the word under assembly holds a glyph. -/
def flushWord (l : LineIx) (s : State) : State :=
  if (s.line l).asm.glyphs.isEmpty then s else completeWord l false s

/-! ### Items from the decoder (R33 to R37, R42 to R47) -/

/-- R80: a glyph taken by the assembler of its attached line ends a service's hold. -/
def endHoldByGlyph (l : LineIx) (s : State) : State :=
  match attachedService s l with
  | some v => s.updSel v fun x => { x with hold := none }
  | none => s

/-- R33: the word under assembly with a glyph appended at PFN. -/
def appendGlyph (pfn : Frame) (g : KeyedGlyph) (a : Assembler) : Assembler :=
  if a.glyphs.isEmpty then
    { a with glyphs := [g], first := some pfn, carriedCont := a.carriedCont || a.contPending,
             contPending := false }
  else { a with glyphs := a.glyphs ++ [g] }

/-- R33: a glyph handed on. -/
def takeGlyph (l : LineIx) (g : KeyedGlyph) (s : State) : State :=
  let s1 := (endHoldByGlyph l s).updAsm l (appendGlyph s.pfn g)
  if Config.wordLimit ≤ (s1.line l).asm.glyphs.length then
    (completeWord l false s1).updAsm l fun a => { a with contPending := true }
  else s1

/-- R34: a word delimiter. -/
def takeDelimiter (l : LineIx) (s : State) : State :=
  if (s.line l).asm.glyphs.isEmpty then s.updAsm l fun a => { a with contPending := false }
  else completeWord l false s

/-- R35: the paragraph break 'P'. -/
def takeBreak (l : LineIx) (s : State) : State :=
  if (s.line l).asm.glyphs.isEmpty then
    s.updAsm l fun a => { a with breakPending := true, contPending := false }
  else completeWord l true s

/-- R36: the speaker change 'S'. -/
def takeSpeaker (l : LineIx) (s : State) : State :=
  s.updAsm l fun a => { a with speakerPending := true, contPending := false }

/-- R42: the clear 'C'. -/
def takeClearCommand (l : LineIx) (s : State) : State :=
  let s1 := flushWord l s
  if stalled s1 l then s1.updAsm l fun a => { a with clearPending := some s.pfn }
  else routeMarker l s.pfn s1

/-- R79: the hold 'H'. -/
def takeHold (l : LineIx) (s : State) : State :=
  match attachedService s l with
  | some v =>
    if (s.service v).record.fh = 0 then s
    else s.updSel v fun x => { x with hold := some s.pfn, holds := bump x.holds }
  | none => s

/-- R92: the next cue 'N'. -/
def takeNext (l : LineIx) (s : State) : State :=
  match attachedService s l with
  | some v => trigger v s.pfn s
  | none => s

/-- R43: a word under assembly that has become empty gives its flags back. -/
def emptied (a : Assembler) : Assembler :=
  { a with
    glyphs := [], first := none, retracted := none
    contPending := a.contPending || a.carriedCont
    speakerPending := a.speakerPending || a.carriedSpeaker
    breakPending := a.breakPending || a.carriedBreak
    carriedCont := false, carriedSpeaker := false, carriedBreak := false }

/-- R43: the last glyph of the word under assembly is removed. -/
def dropGlyph (a : Assembler) : Assembler :=
  let a1 := { a with glyphs := a.glyphs.dropLast }
  if a1.glyphs.isEmpty then emptied a1 else a1

/-- R44: the assembler after word w with target t has been taken back from service v; f stands for the F
that R44 does not state (log 3). -/
def reopen (v : ServiceIx) (w : WordRecord) (t f : Frame) (a : Assembler) : Assembler :=
  dropGlyph { a with
    glyphs := w.glyphs, first := some f
    retracted := some { service := v, arrival := w.arrival, floor := t }
    carriedSpeaker := w.speaker, carriedBreak := w.breakBefore, carriedCont := w.cont
    retractions := bump a.retractions }

/-- R44: the youngest word of the open block is taken out; the rest stays as it stood without it. -/
def unplace (o : OpenBlock) : OpenBlock :=
  match o.words.getLast? with
  | none => o
  | some p =>
    { words := o.words.dropLast, rows := p.before, carry := none
      closing := if o.words.length = 1 then none else o.closing
      expiring := o.expiring && decide (o.words.length ≠ 1) }

/-- R44: where the youngest entry of a service stands. -/
inductive Youngest where
  | inQueue (e : Entry) (w : WordRecord)
  | inBlock (p : Placed)
  | none
  deriving DecidableEq, Repr

/-- R44: the youngest entry of the service, if it is a WORD of line l that can be retracted. -/
def youngestFor (x : Service) (l : LineIx) : Youngest :=
  match x.sched.queue.getLast? with
  | some e =>
    match e.body with
    | .word w => if w.line = l then .inQueue e w else .none
    | _ => .none
  | none =>
    match x.cb.openBlock.words.getLast? with
    | some p => if p.whole ∧ p.word.line = l then .inBlock p else .none
    | none => .none

/-- R3, R44: F of the word that is reopened next, a past frame number of this or of an earlier frame, by a free
value (log 3). -/
def reopenedFirst (s : State) : Frame := moved s.pfn (-((Config.reopenedAge s.draws).val : Int))

/-- R44: a word comes back into the assembler; one free value is drawn for its F. -/
def reopenWord (l : LineIx) (v : ServiceIx) (w : WordRecord) (t : Frame) (s : State) : State :=
  { s.updAsm l (reopen v w t (reopenedFirst s)) with draws := s.draws + 1 }

/-- R47: a late correction. -/
def lateCorrection (l : LineIx) (s : State) : State :=
  s.updAsm l fun a => { a with late := bump a.late }

/-- R43, R44, R47: a backspace. -/
def takeBackspace (l : LineIx) (s : State) : State :=
  if !(s.line l).asm.glyphs.isEmpty then s.updAsm l dropGlyph
  else
    match attachedService s l with
    | none => lateCorrection l s
    | some v =>
      match youngestFor (s.service v) l with
      | .inQueue e w => reopenWord l v w e.target (dropTail v e s)
      | .inBlock p => reopenWord l v p.word p.target (updOpen v unplace s)
      | .none => lateCorrection l s

/-! ### The decoder (R27, R28, R29) -/

/-- R27: the classes of a byte in NORMAL. -/
inductive ByteClass where
  | glyph | delimiter | backspace | leadIn | other
  deriving DecidableEq, Repr

/-- R27: the class of a byte under a data-bit count. -/
def classify (bits : DataBits) (b : Byte) : ByteClass :=
  let n := b.toNat
  if n = 0x20 ∨ n = 0x0D ∨ n = 0x0A then .delimiter
  else if n = 0x08 then .backspace
  else if n = 0x1E then .leadIn
  else if 0x21 ≤ n ∧ n ≤ 0x7E then .glyph
  else if 0xA0 ≤ n ∧ bits = .eight then .glyph
  else .other

/-- R27, R28: the discard count goes up. -/
def discard (l : LineIx) (s : State) : State :=
  s.updLine l fun x => { x with discards := bump x.discards }

/-- R28, R29: the byte after a lead-in, taken as the code byte. -/
def takeCode (l : LineIx) (i : IntakeItem) (s : State) : State :=
  let s1 := s.updLine l fun x => { x with commandPending := false }
  if i.errored then discard l s1
  else
    match i.value.toNat with
    | 0x53 => takeSpeaker l s1
    | 0x50 => takeBreak l s1
    | 0x43 => takeClearCommand l s1
    | 0x46 => flushWord l s1
    | 0x4E => takeNext l s1
    | 0x48 => takeHold l s1
    | _ => discard l s1

/-- R27, R28: one byte reaches the decoder. -/
def decodeItem (l : LineIx) (i : IntakeItem) (s : State) : State :=
  if (s.line l).commandPending then takeCode l i s
  else
    match classify (s.line l).record.dataBits i.value with
    | .glyph => takeGlyph l { glyph := i.value, errored := i.errored } s
    | .delimiter => takeDelimiter l s
    | .backspace => takeBackspace l s
    | .leadIn => s.updLine l fun x => { x with commandPending := true }
    | .other => discard l s

/-! ### Leaving a stall (R41, R55) -/

/-- R41: the held item has left; a pending CLEAR marker follows it. -/
def endStall (l : LineIx) (s : State) : State :=
  let s1 := s.updAsm l fun a => { a with held := none, clearPending := none }
  match (s.line l).asm.clearPending with
  | some a => routeMarker l a s1
  | none => s1

/-- R41: a held word is routed again. -/
def retryWord (l : LineIx) (w : WordRecord) (s : State) : State :=
  match route s l with
  | .queue v =>
    let r := offer v (.word w) w.floor s
    if r.1 then endStall l (pairIfMarked l v w.arrival r.2) else holdItem l (.word w) v r.2
  | .standby v => endStall l (clearMark l (s.updSel v (joinStandby w)))
  | .discard => endStall l (clearMark l (unrouted l s))

/-- R41: a held CLEAR marker is routed again. -/
def retryMarker (l : LineIx) (a : Frame) (s : State) : State :=
  match route s l with
  | .queue v =>
    let r := offer v (.clear l a) none s
    if r.1 then endStall l r.2 else holdItem l (.marker a) v r.2
  | _ => endStall l (unrouted l s)

/-- R41: a stalled assembler looks again at its held item. -/
def retryHeld (l : LineIx) (s : State) : State :=
  let s1 := s.updAsm l fun a => { a with retryOwed := false }
  match (s.line l).asm.held with
  | none => s1
  | some h =>
    match h.item with
    | .word w => retryWord l w s1
    | .marker a => retryMarker l a s1

/-! ### Taking items from the intake FIFO (R22, R24) -/

/-- R22, R24: the head item has been removed from the FIFO. -/
def afterRemoval (x : Line) : Line :=
  let x1 := { x with
    fifo := x.fifo.tail
    overrunOpen := if x.fifo.tail.length = Config.episodeEnd then false else x.overrunOpen }
  if x1.xoff && decide (x1.fifo.length = Config.xonThreshold) then setXoff false x1 else x1

/-- R22: the head item of a line that is not stalled is handed to the decoder. -/
def handItem (l : LineIx) (s : State) : Option State :=
  if stalled s l then none
  else
    match (s.line l).fifo with
    | [] => none
    | i :: _ => some (decodeItem l i (s.updLine l afterRemoval))

/-- R38: the flush-delay check. -/
def checkFlush (l : LineIx) (s : State) : State :=
  if ((s.line l).record.flushDelay : Int) ≤ silenceOf s l then flushWord l s else s

end Sys2Proof.Machine
end

