-- ==== Sys2Proof/Machine/Settle.lean ====
section
/-! DEFINITION. The reactions that the spec puts in the event that causes them (log 4): pending closings,
cues in formation and takes when the block queue has room (R116, R128, R131, R134), retries of held
items when an entry has left their queue (R41), and the handing on of the intake FIFO after a stall
(R22). -/

namespace Sys2Proof.Machine

/-- The first of two reactions that has something to do. -/
def orElseDo (a b : Option State) : Option State :=
  match a with
  | some s => some s
  | none => b

/-- R128, R131, R116, in the order of R128: the builder of one service. -/
def builderReact (v : ServiceIx) (s : State) : Option State :=
  orElseDo (carryOutClosing v s) (orElseDo (formBlock v s) (takeHead v s))

/-- R41: the retry that a line owes. -/
def retryReact (l : LineIx) (s : State) : Option State :=
  if (s.line l).asm.retryOwed then some (retryHeld l s) else none

/-- The first reaction of four things of one kind. -/
def firstOf (f : Fin 4 → Option State) : Option State :=
  orElseDo (f 0) (orElseDo (f 1) (orElseDo (f 2) (f 3)))

/-- One reaction, if any is due: builders first, then retries, then intake FIFOs (log 4). -/
def react (s : State) : Option State :=
  orElseDo (firstOf fun v => builderReact v s)
    (orElseDo (firstOf fun l => retryReact l s) (firstOf fun l => handItem l s))

/-- Reactions one after another, at most n of them. -/
def settleUpTo : Nat → State → State
  | 0, s => s
  | n + 1, s =>
    match react s with
    | none => s
    | some t => settleUpTo n t

/-- Every reaction that is due, to the end of the event. -/
def settle (s : State) : State := settleUpTo Config.settleFuel s

end Sys2Proof.Machine
end

