-- ==== Sys2Proof/Machine/Serve.lean ====
section
/-! DEFINITION. The serving of a cue queue at a frame start (08 section 8.3). -/

namespace Sys2Proof.Machine

/-- R117: what a roll-up release, a discard under mute among them, does to the scheduler. -/
def recordRelease (pfn t : Frame) (q : Scheduler) : Scheduler :=
  { q with
    releases := bump q.releases
    maxLag := maxFigure q.maxLag (figure (frameDiff t pfn)) }

/-- R113, R117: the head e leaves the queue of v by release. -/
def leaveByRelease (v : ServiceIx) (e : Entry) (s : State) : State :=
  (dropHead v e s).updSched v (recordRelease s.pfn e.target)

/-- R118: the head is discarded under mute. -/
def discardHead (v : ServiceIx) (e : Entry) (s : State) : State :=
  (leaveByRelease v e s).updSel v fun x => { x with muteDiscards := bump x.muteDiscards }

/-- R115, R124: the builder after a CLEAR entry has been released. -/
def afterClearEntry (b : Builder) : Builder :=
  { b with fill := 0, newRow := false, timer := .idle }

/-- R114, R115, R118: the roll-up entry e at the head is released; none when its units do not fit. -/
def releaseHead (v : ServiceIx) (e : Entry) (s : State) : Option State :=
  let x := s.service v
  if x.sel.muted then some (discardHead v e s)
  else
    match e.body with
    | .word w =>
      let c := compose x.record.width w x.cb
      let us := plainUnits c.kinds
      if unitsCost us ≤ freeRoom x.om then
        some ((appendUnits v us (leaveByRelease v e s)).updCb v (afterCompose s.pfn c))
      else none
    | .clear _ _ =>
      if 1 ≤ freeRoom x.om then
        some ((appendUnits v [clearUnit] (leaveByRelease v e s)).updCb v afterClearEntry)
      else none
    | .cue .. => none

/-- R113: the head is a roll-up entry whose T has come. -/
def headDue (s : State) (v : ServiceIx) : Option Entry :=
  match (s.service v).sched.queue with
  | [] => none
  | e :: _ =>
    if !popOnPath (s.service v).record.display e.body && atOrBefore e.target s.pfn then some e
    else none

/-- R113, R114: due heads are released one after another, each with its reactions; the first argument
bounds their number. A head that does not fit is counted and stops the serving. -/
def serveUpTo (v : ServiceIx) : Nat → State → State
  | 0, s => s
  | n + 1, s =>
    match headDue s v with
    | none => s
    | some e =>
      match releaseHead v e s with
      | some t => serveUpTo v n (settle t)
      | none => s.updSched v fun q => { q with stalls := bump q.stalls }

/-- R113: the release scheduler of an enabled service serves its queue. -/
def serveQueue (v : ServiceIx) (s : State) : State :=
  if (s.service v).record.enabled then
    serveUpTo v (s.service v).sched.queue.length (settle s)
  else s

end Sys2Proof.Machine
end

