-- ==== Sys2Proof/Machine/Sources.lean ====
section
/-! DEFINITION. Source selection (chapter 6): the standby age-out, holds, silence, failover, line switches
and the restart of a service. -/

namespace Sys2Proof.Machine

/-! ### The standby hold at a switch (R77, R83) -/

/-- R77: one standby word is offered to the cue queue: merged, or lost and counted. -/
def mergeOne (v : ServiceIx) (p : State × Nat) (w : WordRecord) : State × Nat :=
  let r := offer v (.word w) none p.1
  if r.1 then (r.2, p.2 + 1)
  else (r.2.updSel v fun x => { x with mergeLost := bump x.mergeLost }, p.2)

/-- R77: the standby words are offered head first and the hold is empty; with how many were merged. -/
def mergeStandby (v : ServiceIx) (s : State) : State × Nat :=
  let ws := (s.service v).sel.standby
  ws.foldl (mergeOne v) (s.updSel v fun x => { x with standby := [] }, 0)

/-- The other of the two choices. -/
def swapped : Choice → Choice
  | .primary => .backup
  | .backup => .primary

/-- R77: a failover from old to new. -/
def failover (v : ServiceIx) (old new : LineIx) (s : State) : State :=
  let held := (s.service v).sel.standby.length
  let s1 := flushWord old s
  let s2 := s1.updSel v fun x => { x with choice := swapped x.choice, hold := none }
  let m := mergeStandby v s2
  let s3 := m.1.updSel v fun x =>
    { x with failovers := bump x.failovers, silentNotified := false }
  raise (.failover v old new s.pfn m.2 (held - m.2)) s3

/-- R76: the other line is present, enabled and active. -/
def otherActive (s : State) (v : ServiceIx) : Option LineIx :=
  match otherLine (s.service v) with
  | some l =>
    if (s.line l).record.enabled && decide (silenceOf s l < ((s.service v).record.fs : Int)) then
      some l
    else none
  | none => none

/-- R76, R82: the silence check runs. -/
def silenceRuns (x : Service) : Bool :=
  x.record.enabled && decide (x.sel.mode = .live) && decide (x.record.fs ≠ 0) && x.sel.hold.isNone &&
    !x.sel.awaitsFrame

/-- R76, R78: the silence check, step 3. -/
def checkSilence (v : ServiceIx) (s : State) : State :=
  let x := s.service v
  if silenceRuns x then
    match attachedLine x with
    | none => s
    | some l =>
      if silenceOf s l < (x.record.fs : Int) then
        s.updSel v fun y => { y with silentNotified := false }
      else
        match otherActive s v with
        | some m => failover v l m s
        | none =>
          if x.sel.silentNotified then s
          else
            raise (.sourceSilent v l (s.pfn - (s.line l).stamp))
              (s.updSel v fun y => { y with silentNotified := true })
  else s

/-- R75: the standby age-out, step 1. -/
def ageOut (v : ServiceIx) (s : State) : State :=
  let x := s.service v
  if x.record.enabled && decide (x.record.fs ≠ 0) then
    s.updSel v fun y =>
      { y with
        standby := y.standby.filter fun w => decide (frameDiff w.arrival s.pfn < (x.record.fs : Int))
        standbyExpired := bumpBy y.standbyExpired
          (y.standby.countP fun w => decide ((x.record.fs : Int) ≤ frameDiff w.arrival s.pfn)) }
  else s

/-- R81: an active hold of an enabled service has reached Fh. -/
def holdExpired (s : State) (v : ServiceIx) : Bool :=
  let x := s.service v
  x.record.enabled &&
    match x.sel.hold with
    | some f => decide ((x.record.fh : Int) ≤ frameDiff f s.pfn)
    | none => false

/-- R81: the end of an expired hold, step 2. -/
def endHold (v : ServiceIx) (s : State) : State :=
  if holdExpired s v then s.updSel v fun y => { y with hold := none } else s

/-- R83: a line switch by SELECT. -/
def switchLine (v : ServiceIx) (c : Choice) (s : State) : State :=
  let s1 := match attachedLine (s.service v) with
    | some old => flushWord old s
    | none => s
  let s2 := s1.updSel v fun x => { x with choice := c, hold := none, silentNotified := false }
  match (s2.service v).sel.mode with
  | .live => (mergeStandby v s2).1
  | .script =>
    s2.updSel v fun x =>
      { x with standby := [], standbyDropped := bumpBy x.standbyDropped x.standby.length }

/-! ### Restart (R86) -/

/-- R86 step 2, R49, R55: what a restart of v does to the assembler of a line. -/
def restartLine (v : ServiceIx) (x : Line) : Line :=
  let waits := match x.asm.held with
    | some h => decide (h.on = v)
    | none => false
  let a := if waits then { x.asm with held := none, clearPending := none, retryOwed := false }
    else x.asm
  let from_v := match a.retracted with
    | some r => decide (r.service = v)
    | none => false
  { x with
    asm := if from_v then { a with retracted := none } else a
    lat := if waits then { x.lat with firstWord := false } else x.lat }

/-- R86: what a restart does to the service's own state; the record and the counts are kept. -/
def restartedService (x : Service) : Service :=
  { x with
    sel := { x.sel with mode := .live, choice := .primary, hold := none, muted := false,
                        silentNotified := false, awaitsFrame := false, standby := [] }
    onsets := { x.onsets with frames := [] }
    runner := idleRunner x.runner
    sched := { x.sched with queue := [], lastLeft := none, lastLateness := 0, maxLateness := 0,
                            maxLag := 0 }
    cb := compositionReset { x.cb with openBlock := emptyOpenBlock, cue := none, blocks := [],
                                       shown := none, timer := .idle }
    om := onlyClear x.om }

/-- R86: the restart of a service. -/
def restartService (v : ServiceIx) (s : State) : State :=
  let s1 := s.updService v restartedService
  { s1 with lines := s1.lines.map (restartLine v) }

end Sys2Proof.Machine
end

