-- ==== Sys2Proof/Machine/Inputs.lean ====
section
/-! DEFINITION. The studio inputs (chapter 5): sampling, debounce and the delivery of edges. -/

namespace Sys2Proof.Machine

/-- R63, R64: one sample of an input. A run that reaches Nr + 1 stands there until the change is taken
(GPI_EDGE_ACCEPTED). -/
def sample (level : Bool) (x : Input) : Input :=
  match x.accepted with
  | none => { x with accepted := some level, run := 0 }
  | some a => if level = a then { x with run := 0 } else { x with run := x.run + 1 }

/-- R63: the run of the input has reached Nr + 1. -/
def edgeReady (x : Input) : Bool := decide (x.record.nr < x.run) && x.accepted.isSome

/-- R65: the edge of an input, an assert or a deassert, delivered to the block of its function. -/
def deliver (r : GpiRecord) (isAssert : Bool) (edge : Frame) (s : State) : State :=
  let v := r.target
  match r.function with
  | .none => s
  | .onset => if isAssert then offerOnset v edge s else s
  | f =>
    if (s.service v).record.enabled then
      match f with
      | .cue => if isAssert then trigger v edge s else s
      | .mode => setMode v (if isAssert then .script else .live) s
      | .mute => if isAssert then beginMute v s else endMute v s
      | .clear => if isAssert then clearService v s else s
      | _ => s
    else s

/-- R63, R65: the input after its change has been accepted. -/
def acceptChange (isAssert : Bool) (x : Input) : Input :=
  { x with
    accepted := x.accepted.map not
    run := 0
    asserts := if isAssert then bump x.asserts else x.asserts
    deasserts := if isAssert then x.deasserts else bump x.deasserts }

/-- R63, R65, R66: an input whose run has reached Nr + 1 takes the change, and the edge is delivered with
the edge frame PFN − Nr. -/
def acceptEdge (i : InputIx) (s : State) : State :=
  let x := s.input i
  if edgeReady x then
    let isAssert := x.accepted == some (!x.record.activeHigh)
    deliver x.record isAssert (moved s.pfn (-(x.record.nr : Int)))
      (s.updInput i (acceptChange isAssert))
  else s

/-- R64: the input is set to baseline pending. -/
def rebaseline (x : Input) : Input := { x with accepted := none, run := 0 }

end Sys2Proof.Machine
end

