-- ==== Sys2Proof/Machine/Multiplexer.lean ====
section
/-! DEFINITION. The output multiplexer (chapter 10): packet assembly at a carriage point. -/

namespace Sys2Proof.Machine

/-- What a service gives in one round: the units taken, the FIFO left, the bytes used, and whether a
GLYPHS unit was split. -/
structure Taken where
  units : List OutUnit
  rest : List OutUnit
  used : Nat
  split : Bool
  deriving DecidableEq, Repr

/-- R147: a GLYPHS unit cut to r bytes: the piece, and the unit that stays. -/
def splitGlyphs (r : Nat) (u : OutUnit) (gs : List Byte) : OutUnit × OutUnit :=
  (plainUnit (.glyphs (gs.take (r - 2))), { u with kind := .glyphs (gs.drop (r - 2)) })

/-- R145, R146, R147: units taken from the head of a FIFO against the bytes left to the service. -/
def takeUnits (n : Frame) : List OutUnit → Nat → Taken
  | [], _ => { units := [], rest := [], used := 0, split := false }
  | u :: us, room =>
    if eligible n u then
      if unitCost u ≤ room then
        let t := takeUnits n us (room - unitCost u)
        { t with units := u :: t.units, used := unitCost u + t.used }
      else
        match u.kind with
        | .glyphs gs =>
          if 3 ≤ room then
            { units := [(splitGlyphs room u gs).1], rest := (splitGlyphs room u gs).2 :: us,
              used := room, split := true }
          else { units := [], rest := u :: us, used := 0, split := false }
        | _ => { units := [], rest := u :: us, used := 0, split := false }
    else { units := [], rest := u :: us, used := 0, split := false }

/-- Section 10.1: the not-before frame of a SHOW unit. -/
def showFrameOf (u : OutUnit) : Option Frame :=
  match u.kind with
  | .showBlock => u.notBefore
  | _ => none

/-- R141, R135: the departing units, in order, of which each SHOW is reported to the builder; `rest` stands
behind them. -/
def reportShows (v : ServiceIx) (n : Frame) (rest : List OutUnit) : List OutUnit → State → State
  | [], s => s
  | u :: us, s =>
    match showFrameOf u with
    | some f =>
      reportShows v n rest us (showLeft v f n ((us ++ rest).filterMap showFrameOf).isEmpty s)
    | none => reportShows v n rest us s

/-- R148, R147: the carriage counts after a round; `round2` for the bytes of round 2. -/
def countTaken (round2 : Bool) (t : Taken) (o : Carriage) : Carriage :=
  { o with
    fifo := t.rest
    unitsCarried := bumpBy o.unitsCarried t.units.length
    bytesCarried := bumpBy o.bytesCarried t.used
    round2Bytes := if round2 then bumpBy o.round2Bytes t.used else o.round2Bytes
    splits := if t.split then bump o.splits else o.splits }

/-- One service served in one round against some bytes. -/
def serveRound (round2 : Bool) (n : Frame) (v : ServiceIx) (room : Nat) (s : State) : Taken × State :=
  let t := takeUnits n (s.service v).om.fifo room
  (t, reportShows v n t.rest t.units (s.updOm v (countTaken round2 t)))

/-- The assembly in progress: the state, the units placed with their services, and the bytes used. -/
structure Assembly where
  state : State
  placed : List (ServiceIx × OutUnit)
  used : Nat

/-- A service served in the assembly. -/
def assembleOne (round2 : Bool) (n : Frame) (room : Nat) (a : Assembly) (v : ServiceIx) : Assembly :=
  let r := serveRound round2 n v room a.state
  { state := r.2, placed := a.placed ++ r.1.units.map fun u => (v, u), used := a.used + r.1.used }

/-- R145: round 1, each service against its allowance. -/
def round1 (n : Frame) (s : State) : Assembly :=
  fours.foldl (fun a v => assembleOne false n (allowance s v) a v)
    { state := s, placed := [], used := 0 }

/-- R146: the services in order of priority level, and of number within a level. -/
def round2Order (s : State) : List ServiceIx :=
  [0, 1, 2, 3].flatMap fun k => fours.filter fun v => (s.service v).record.priority == k

/-- R146: round 2, each service in order against the bytes left. -/
def round2 (n : Frame) (a : Assembly) : Assembly :=
  (round2Order a.state).foldl (fun b v => assembleOne true n (Config.payloadSize - b.used) b v) a

/-- R148: the head of the service's FIFO is eligible at frame n. -/
def headEligible (n : Frame) (o : Carriage) : Bool :=
  match o.fifo with
  | [] => false
  | u :: _ => eligible n u

/-- R148: a service whose FIFO held an eligible head and which took no byte is starved. -/
def countStarved (n : Frame) (before : State) (placed : List (ServiceIx × OutUnit)) (s : State) :
    State :=
  forServices (fun v t =>
    if headEligible n (before.service v).om && placed.all (fun p => decide (p.1 ≠ v)) then
      t.updOm v fun o => { o with starved := bump o.starved }
    else t) s

/-- R142: a pending slot map takes effect. -/
def applyMap (s : State) : State :=
  match s.pendingMap with
  | some m => { s with slotMap := m, pendingMap := none }
  | none => s

/-- R144 to R148: the packet assembly of frame n, after any pending map has taken effect. -/
def assemble (s : State) : Assembly :=
  let s0 := applyMap s
  let a := round2 s.pfn (round1 s.pfn s0)
  { a with state := countStarved s.pfn s0 a.placed a.state }

/-! ### The caption packet (section 10.3) -/

/-- The kind code of a unit's header byte. -/
def kindCode : UnitKind → Nat
  | .glyphs _ => 1
  | .roll => 2
  | .newRow => 3
  | .showBlock => 4
  | .clear => 5

/-- The bytes of a unit: service in bits 7 and 6, kind in bits 5 to 3, then count and glyphs. -/
def unitBytes (v : ServiceIx) (u : OutUnit) : List Byte :=
  byte1 (64 * v.val + 8 * kindCode u.kind) ::
    match u.kind with
    | .glyphs gs => byte1 gs.length :: gs
    | _ => []

/-- R148: the payload: the units in order, then filler up to byte 48. -/
def payload (a : Assembly) : List Byte :=
  let bs := a.placed.flatMap fun p => unitBytes p.1 p.2
  bs ++ List.replicate (Config.payloadSize - bs.length) 0#8

/-- Section 10.3: the caption packet of frame n. -/
def captionPacket (n : Frame) (a : Assembly) : List Byte :=
  0x61#8 :: n.extractLsb' 0 8 :: byte1 a.used :: payload a

/-! ### The report packet (section 11.6) -/

def codeByte : ReplyCode → Byte
  | .ok => 0#8
  | .clamped => 1#8
  | .badIndex => 2#8
  | .badValue => 3#8
  | .inUse => 4#8
  | .busy => 5#8
  | .incomplete => 6#8
  | .notArmed => 7#8
  | .notScript => 8#8
  | .malformed => 9#8
  | .unknown => 10#8

def noticeByte : Notice → Byte
  | .failover .. => 1#8
  | .sourceSilent .. => 2#8
  | .storyEnd .. => 3#8
  | .storyDrained .. => 4#8
  | .lineOverrun .. => 5#8
  | .referenceLost .. => 6#8
  | .referenceRestored .. => 7#8

def endActionByte : EndAction → Byte
  | .live => 0#8
  | .hold => 1#8
  | .next => 2#8

/-- R158: a notice's contents in the order of the notice table (log 10 for the sizes). -/
def noticeBytes : Notice → List Byte
  | .failover v a b n m lost =>
    [byte1 v.val, byte1 a.val, byte1 b.val] ++ bytes4 n ++ bytes2 m ++ bytes2 lost
  | .sourceSilent v l d => [byte1 v.val, byte1 l.val] ++ bytes4 d
  | .storyEnd v k act n failed =>
    [byte1 v.val, byte1 k, endActionByte act] ++ bytes4 n ++
      match failed with
      | none => [0#8]
      | some j => [1#8, byte1 j]
  | .storyDrained v k n => [byte1 v.val, byte1 k] ++ bytes4 n
  | .lineOverrun l c => byte1 l.val :: countBytes c
  | .referenceLost n => bytes4 n
  | .referenceRestored n k => bytes4 n ++ bytes4 k

/-- Section 11.6: the report packet that carries a report from the device address in force. -/
def reportPacket (address : Nat) : Report → List Byte
  | .reply tag kind code body =>
    [0x63#8, byte1 address, 1#8, tag, kind, codeByte code, byte1 body.length] ++ body
  | .notice n =>
    let body := noticeBytes n
    [0x63#8, byte1 address, 2#8, 0#8, noticeByte n, 0#8, byte1 body.length] ++ body

/-- R14, R157: the oldest report leaves in a report packet, when there is one. -/
def placeReport (s : State) : State :=
  match s.ci.reports with
  | [] => s
  | r :: rs =>
    { s with ci := { s.ci with reports := rs }, out := s.out ++ [reportPacket s.device.address r] }

end Sys2Proof.Machine
end

