-- ==== Sys2Proof/Machine/Steno.lean ====
section
/-! DEFINITION. Reception on a steno line (02 sections 2.2 to 2.4). -/

namespace Sys2Proof.Machine

/-- R17: the value of a character: seven data bits on a 7-bit line. -/
def charValue (r : LineRecord) (data : Byte) : Byte :=
  match r.dataBits with
  | .seven => data &&& 0x7F#8
  | .eight => data

/-- The number of ones of a byte. -/
def onesOf (b : Byte) : Nat := (List.range 8).countP fun i => b.getLsbD i

/-- R17: the parity of a character is wrong under the record. -/
def parityWrong (r : LineRecord) (v : Byte) (parityBit : Bool) : Bool :=
  let ones := onesOf v + (if parityBit then 1 else 0)
  match r.parity with
  | .none => false
  | .odd => decide (ones % 2 = 0)
  | .even => decide (ones % 2 = 1)

/-- R18, R19: the counts and the stamp of a received character. -/
def countCharacter (pfn : Frame) (framing parity : Bool) (x : Line) : Line :=
  { x with
    received := bump x.received
    framingErrors := if framing then bump x.framingErrors else x.framingErrors
    parityErrors := if parity then bump x.parityErrors else x.parityErrors
    stamp := pfn
    receiver := if framing then .waitHigh else .watching }

/-- R24: an item has been appended to the intake FIFO. -/
def appendIntake (i : IntakeItem) (x : Line) : Line :=
  let x1 := { x with fifo := x.fifo ++ [i] }
  if x1.record.flow && !x1.xoff && decide (Config.xoffThreshold ≤ x1.fifo.length) then
    setXoff true x1
  else x1

/-- R23: a byte that finds the intake FIFO full is dropped. -/
def overrun (l : LineIx) (s : State) : State :=
  let s1 := s.updLine l fun x => { x with overruns := bump x.overruns, overrunOpen := true }
  if (s.line l).overrunOpen then s1
  else raise (.lineOverrun l (s1.line l).overruns) s1

/-- R21: a byte is handed on: to the decoder, to the intake FIFO, or nowhere. -/
def handOn (l : LineIx) (i : IntakeItem) (s : State) : State :=
  if (s.line l).fifo.isEmpty && !stalled s l then decodeItem l i s
  else if (s.line l).fifo.length < Config.intakeCapacity then s.updLine l (appendIntake i)
  else overrun l s

/-- R20: a flow-control byte received without error. -/
def isFlowByte (v : Byte) : Bool := v == 0x11#8 || v == 0x13#8

/-- R17 to R21: a character received under the record of its start bit. -/
def receive (l : LineIx) (r : LineRecord) (data : Byte) (parityBit stopBit : Bool) (s : State) :
    State :=
  let v := charValue r data
  let framing := !stopBit
  let parity := stopBit && parityWrong r v parityBit
  let s1 := s.updLine l (countCharacter s.pfn framing parity)
  if framing || parity then handOn l { value := r.substitute, errored := true } s1
  else if isFlowByte v then s1
  else handOn l { value := v, errored := false } s1

/-- R16: the record that governs a character now ending: that of its start bit, or, with no start bit
noted, the record in force (log 15). -/
def recordInForce (x : Line) : Option LineRecord :=
  match x.receiver with
  | .timing r => some r
  | .watching => some x.record
  | .waitHigh => none

/-- R17: a start bit may be noted: the line watches the wire, or passes over a character that fell on it
while it was disabled. -/
def looksForStart (x : Line) : Bool :=
  match x.receiver with
  | .watching => true
  | .timing r => !r.enabled
  | .waitHigh => false

/-- R16, R17: a fall of the wire. The start bit is noted with the record in force, enabled or not. -/
def startBit (highAtMiddle : Bool) (x : Line) : Line :=
  if looksForStart x && !highAtMiddle then { x with receiver := .timing x.record } else x

/-- R16, R17: a character whose start bit fell on a disabled line ends: nothing is received. -/
def passOver (x : Line) : Line :=
  match x.receiver with
  | .timing _ => { x with receiver := .watching }
  | _ => x

/-- R17: the wire is seen high again. -/
def wireHigh (x : Line) : Line :=
  match x.receiver with
  | .waitHigh => { x with receiver := .watching }
  | _ => x

/-- R25: the character being sent has been sent. -/
def sent (x : Line) : Line :=
  match x.sending with
  | some k => transmit { x with sending := none, lastSent := k.byte }
  | none => x

end Sys2Proof.Machine
end

