-- ==== Sys2Proof/Machine/Work.lean ====
section
/-! DEFINITION. The frame-start work of the blocks (R1, 95_what_each_step_holds.md) and the drain checks of
a carriage point: each is delivered as due, and taken once (log 1). -/

namespace Sys2Proof.Machine

/-- The frame-start work in the model's own order (log 1). -/
def frameStartWork : List Work :=
  eights.map Work.edge ++ fours.map Work.onsetExpiry ++ fours.map Work.flush ++
    fours.map Work.ageOut ++ fours.map Work.holdEnd ++ fours.map Work.silence ++
    fours.map Work.timed ++ fours.map Work.retry ++ fours.map Work.serve ++
    fours.map Work.blockHold ++ fours.map Work.append ++ fours.map Work.stale ++
    fours.map Work.dmax

/-- R41: the frame-start retry of a held item. -/
def frameRetry (l : LineIx) (s : State) : State := if stalled s l then retryHeld l s else s

/-- What one piece of work does, its reactions aside. -/
def perform : Work → State → State
  | .edge i, s => acceptEdge i s
  | .onsetExpiry v, s => expireOnsets v s
  | .flush l, s => checkFlush l s
  | .ageOut v, s => ageOut v s
  | .holdEnd v, s => endHold v s
  | .silence v, s => checkSilence v s
  | .timed v, s => checkTimed v s
  | .retry l, s => frameRetry l s
  | .serve v, s => serveQueue v s
  | .blockHold v, s => checkHold v s
  | .append v, s => attemptAppend v s
  | .stale v, s => checkStale v s
  | .dmax v, s => checkDmax v s
  | .drain v, s => drainCheck v s

/-- A piece of work that is due is taken, with its reactions; one that is not due does nothing (log 7). -/
def doWork (w : Work) (s : State) : State :=
  if s.due.contains w then settle (perform w { s with due := s.due.erase w }) else s

/-- R76, R81: a piece of work taken by name. Source selection keeps the order of its three steps, and the
silence check follows a hold that ends by expiry. -/
def runWork (w : Work) (s : State) : State :=
  match w with
  | .holdEnd v =>
    let s1 := doWork (.ageOut v) s
    let s2 := doWork (.holdEnd v) s1
    if s1.due.contains (.holdEnd v) && holdExpired s1 v then doWork (.silence v) s2 else s2
  | .silence v => doWork (.silence v) (doWork (.holdEnd v) (doWork (.ageOut v) s))
  | w => doWork w s

/-- R1: every piece of work still due is taken, in its order. -/
def finishWork (s : State) : State := s.due.foldl (fun t w => doWork w t) s

/-- R82: a frame start has come: the silence check of a service that has returned to LIVE runs again. -/
def frameCame (x : Service) : Service := { x with sel := { x.sel with awaitsFrame := false } }

/-- R1, R2, R3, R63, R64, R82: a frame start: PFN goes up by one, past frame numbers are held, the inputs
are sampled, and the frame start is delivered. -/
def beginFrame (levels : BitVec 8) (s : State) : State :=
  let s1 := holdPast { s with pfn := s.pfn + 1, services := s.services.map frameCame }
  let s2 := forInputs (fun i t => t.updInput i (sample (levels.getLsbD i.val))) s1
  { s2 with due := frameStartWork, out := [] }

/-- The drain checks that precede the assembly (R101), the lowest service first (log 18). -/
def drainsFirst (which : BitVec 4) (s : State) : State :=
  forServices (fun v t => if which.getLsbD v.val then drainCheck v t else t) s

/-- The drain checks that follow the assembly are due (R101). -/
def drainsAfter (which : BitVec 4) : List Work :=
  (fours.filter fun v => !which.getLsbD v.val).map Work.drain

/-- R134, R148: when the assembly ends each builder attempts its append, with its reactions. -/
def appendAll (s : State) : State := forServices (fun v t => settle (attemptAppend v t)) s

/-- R14, R148: a real carriage point. The report packet takes the head of the report queue as it stands when
the assembly ends, before the appends and the drain checks that follow it (log 18). -/
def realCarriage (which : BitVec 4) (s : State) : State :=
  let a := assemble (drainsFirst which s)
  let s1 := placeReport { a.state with out := a.state.out ++ [captionPacket s.pfn a] }
  let s2 := appendAll s1
  { s2 with due := s2.due ++ drainsAfter which }

/-- R10: an internal carriage point: the packet is discarded and the report queue left as it is. -/
def internalCarriage (which : BitVec 4) (s : State) : State :=
  let s1 := appendAll (assemble (drainsFirst which s)).state
  finishWork { s1 with due := s1.due ++ drainsAfter which }

/-- R10: one internal frame: its start, its work in the order given, and its carriage point. -/
def internalFrame (levels : BitVec 8) (f : InternalFrame) (s : State) : State :=
  let s1 := beginFrame levels s
  let s2 := { s1 with internalFrames := s1.internalFrames + 1 }
  let s3 := f.order.foldl (fun t w => runWork w t) s2
  internalCarriage f.drainFirst (finishWork s3)

end Sys2Proof.Machine
end

