-- ==== Sys2Proof/Machine/Query.lean ====
section
/-! DEFINITION. The reply bodies of queries (R154): the fields in the order of the rules that list them, with
the sizes of R151 and R154 (log 10). -/

namespace Sys2Proof.Machine

/-! ### Values as bytes (R151) -/

def fpsByte : FrameRate → Byte
  | .f24 => 24#8
  | .f25 => 25#8
  | .f30 => 30#8
  | .f50 => 50#8
  | .f60 => 60#8

def refByte : RefState → Byte
  | .seeking => 0#8
  | .locked => 1#8
  | .freewheel => 2#8

def rateByte : LineRate → Byte
  | .r1200 => 0#8
  | .r2400 => 1#8
  | .r4800 => 2#8
  | .r9600 => 3#8
  | .r19200 => 4#8
  | .r38400 => 5#8

def dataBitsByte : DataBits → Byte
  | .seven => 7#8
  | .eight => 8#8

def parityByte : Parity → Byte
  | .none => 0#8
  | .odd => 1#8
  | .even => 2#8

def flowByte : FlowByte → Byte
  | .xon => 0x11#8
  | .xoff => 0x13#8

def functionByte : GpiFunction → Byte
  | .none => 0#8
  | .onset => 1#8
  | .cue => 2#8
  | .mode => 3#8
  | .mute => 4#8
  | .clear => 5#8

def displayByte : Display → Byte
  | .rollUp => 0#8
  | .popOn => 1#8

def modeByte : Mode → Byte
  | .live => 0#8
  | .script => 1#8

def choiceByte : Choice → Byte
  | .primary => 0#8
  | .backup => 1#8

def advanceByte : Advance → Byte
  | .triggered => 0#8
  | .timed => 1#8

def phaseByte : Phase → Byte
  | .idle => 0#8
  | .armed => 1#8
  | .running => 2#8
  | .suspended => 3#8
  | .draining => 4#8

def formByte : Form → Byte
  | .none => 0#8
  | .rolling => 1#8
  | .block => 2#8

/-- A line or slot: its number, or 0xFF for none or OPEN (R151). -/
def lineByte : Option (Fin 4) → Byte
  | none => 0xFF#8
  | some l => byte1 l.val

/-- R154: a field that may be absent, after its presence byte. -/
def optional {α : Type} (f : α → List Byte) : Option α → List Byte
  | none => [0#8]
  | some x => 1#8 :: f x

def optFrame (o : Option Frame) : List Byte := optional bytes4 o

/-- R154: a list, preceded by its number of items. -/
def counted {α : Type} (f : α → List Byte) (xs : List α) : List Byte :=
  byte1 xs.length :: xs.flatMap f

/-! ### DEVICE (R4, R70, R150) -/

def inputBytes (x : Input) : List Byte :=
  [functionByte x.record.function, byte1 x.record.target.val, flagByte x.record.activeHigh,
    byte1 x.record.nr] ++ optional (fun b => [flagByte b]) x.accepted ++ [byte1 x.run] ++
    countBytes x.asserts ++ countBytes x.deasserts

def slotMapBytes (m : SlotMap) : List Byte := m.toList.map lineByte

def deviceBody (s : State) : List Byte :=
  [fpsByte s.device.fps] ++ bytes2 s.device.delay ++ [byte1 s.device.address] ++ bytes4 s.pfn ++
    [refByte s.ref] ++ eights.flatMap (fun i => inputBytes (s.input i)) ++
    slotMapBytes s.slotMap ++ optional slotMapBytes s.pendingMap ++
    fours.map (fun v => byte1 (allowance s v)) ++ [flagByte s.ci.droppedNotice] ++
    countBytes s.ci.taken ++ countBytes s.ci.refused ++ countBytes s.ci.noticesDropped ++
    countBytes s.ci.repliesLost

/-! ### LINE (R30, R48, R60) -/

/-- R30: the line record is given as the six fields of section 2.1, and the FIFO count takes one byte
(log 10). -/
def lineBody (x : Line) : List Byte :=
  [flagByte x.record.enabled, rateByte x.record.rate, dataBitsByte x.record.dataBits,
    parityByte x.record.parity, flagByte x.record.flow, x.record.substitute] ++
    countBytes x.received ++ countBytes x.parityErrors ++ countBytes x.framingErrors ++
    countBytes x.overruns ++ countBytes x.discards ++
    [byte1 x.fifo.length, flagByte x.xoff, flowByte x.lastSent, flagByte x.overrunOpen,
      flagByte x.commandPending] ++ bytes4 x.stamp

def heldKindByte : HeldItem → Byte
  | .word _ => 0#8
  | .marker _ => 1#8

/-- R48: one presence byte says retracted, one held, and the glyph count takes one byte (log 10). -/
def assemblerBody (x : Line) : List Byte :=
  let a := x.asm
  [byte1 a.glyphs.length] ++ optFrame a.first ++
    optional (fun r => bytes4 r.arrival ++ bytes4 r.floor) a.retracted ++
    [flagByte a.speakerPending, flagByte a.breakPending, flagByte a.contPending] ++
    optional (fun h => [heldKindByte h.item]) a.held ++
    [flagByte a.clearPending.isSome, byte1 x.record.flushDelay] ++
    countBytes a.completed ++ countBytes a.unrouted ++ countBytes a.retractions ++
    countBytes a.late

def latencyBody (x : Line) : List Byte :=
  bytes2 x.record.l0 ++ bytes2 x.record.lmin ++ bytes2 x.record.lmax ++
    [flagByte x.record.adaptive] ++ bytes2 x.lat.lest ++ bytes2 (lsel x) ++
    optional bytes2 x.lat.lastSample ++ optFrame x.lat.lastCompletion ++
    [flagByte x.lat.firstWord] ++ countBytes x.lat.samples ++ countBytes x.lat.unpaired

/-! ### SERVICE part 0 (R73, R60) -/

def recordBytes (r : ServiceRecord) : List Byte :=
  [flagByte r.enabled, lineByte r.primary, lineByte r.backup, displayByte r.display,
    byte1 r.width, byte1 r.rows, byte1 r.readingRate] ++ bytes2 r.dmin ++ bytes2 r.dmax ++
    bytes2 r.holdLimit ++ bytes2 r.tclear ++ bytes2 r.fs ++ bytes2 r.fh ++
    [BitVec.ofInt 8 r.sofs, byte1 r.priority, byte1 r.gap]

def standbyBytes (w : WordRecord) : List Byte :=
  [byte1 w.glyphs.length, byte1 w.line.val] ++ bytes4 w.arrival

/-- R73: one presence byte says that the hold is active, and its start frame follows (log 10). -/
def selectionBody (x : Service) : List Byte :=
  recordBytes x.record ++ [modeByte x.sel.mode, choiceByte x.sel.choice, lineByte (attachedLine x)] ++
    optFrame x.sel.hold ++ [flagByte x.sel.muted, flagByte x.sel.silentNotified] ++
    counted standbyBytes x.sel.standby ++ countBytes x.sel.failovers ++
    countBytes x.sel.standbyDropped ++ countBytes x.sel.standbyExpired ++
    countBytes x.sel.mergeLost ++ countBytes x.sel.holds ++ countBytes x.sel.muteDiscards ++
    counted bytes4 x.onsets.frames ++ countBytes x.onsets.admitted ++
    countBytes x.onsets.dropped ++ countBytes x.onsets.expired

/-! ### SERVICE part 1 (R90, R121) -/

/-- R90: the cue index that the cue pointer stands for. -/
def pointerCue (s : State) (r : Runner) : Option Nat :=
  match r.story with
  | none => none
  | some k => (storeGet k s.stories).map fun st => st.first + r.pointer

def runnerBody (s : State) (v : ServiceIx) : List Byte :=
  let r := (s.service v).runner
  [phaseByte r.phase] ++ optional (fun k => [byte1 k]) r.story ++ [byte1 r.pointer] ++
    optional bytes2 (pointerCue s r) ++ bytes2 r.remaining ++ optFrame r.lastCueT ++
    optFrame r.nextBase ++ optFrame (r.nextBase.map (dueFrame s v)) ++ [flagByte r.timingHeld] ++
    countBytes r.issued ++ countBytes r.ignored ++ countBytes r.lost ++ countBytes r.deferrals

def entryKindByte : EntryBody → Byte
  | .word _ => 0#8
  | .clear .. => 1#8
  | .cue .. => 2#8

/-- R121: the source line of a WORD or CLEAR, or the story tag of a CUE. -/
def entrySource : EntryBody → Byte
  | .word w => byte1 w.line.val
  | .clear l _ => byte1 l.val
  | .cue k _ _ _ => byte1 k

/-- R121: one presence byte stands for the fields of the head entry, and one for those of the youngest
(log 10). -/
def schedulerBody (q : Scheduler) : List Byte :=
  [byte1 q.queue.length] ++
    optional (fun e => [entryKindByte e.body, entrySource e.body] ++ bytes4 e.target) q.queue.head? ++
    optional (fun e => entryKindByte e.body :: bytes4 e.target) q.queue.getLast? ++
    optFrame q.lastLeft ++ countBytes q.lastLateness ++ countBytes q.maxLateness ++
    countBytes q.maxLag ++ countBytes q.fullRefusals ++ countBytes q.releases ++
    countBytes q.stalls

/-! ### SERVICE part 2 (R139, R150) -/

/-- R139: the head block's kind, and S after a presence byte, since a CLEAR-ONLY block has none (R130). -/
def blockBytes : Block → List Byte
  | .text b => 0#8 :: optFrame (some b.showFrame)
  | .clearOnly .. => 1#8 :: optFrame none

def timerBytes : DmaxTimer → List Byte
  | .idle => 0#8 :: optFrame none
  | .waiting => 1#8 :: optFrame none
  | .running due => 2#8 :: optFrame (some due)

/-- R139: one presence byte stands for Sprev and durprev together, and one for the fields of the cue in
formation (log 10). -/
def builderBody (b : Builder) : List Byte :=
  [formByte b.form, byte1 b.fill, flagByte b.newRow] ++ optFrame b.lastRelease ++
    [byte1 b.openBlock.words.length, byte1 b.openBlock.rows.length] ++
    optFrame (tFirst b.openBlock) ++ [flagByte b.openBlock.closing.isSome,
      byte1 ((b.openBlock.carry.map fun c => c.pieces.length).getD 0)] ++
    optional (fun c => byte1 c.story :: bytes2 c.index ++
      [byte1 (c.groups.map List.length).sum]) b.cue ++
    [byte1 b.blocks.length] ++ optional blockBytes b.blocks.head? ++
    optional (fun p => bytes4 p.1 ++ bytes2 p.2) b.shown ++ timerBytes b.timer ++
    countBytes b.blocksClosed ++ countBytes b.holdExpiries ++ countBytes b.slips ++
    countBytes b.timedClears

/-- R150: the head unit's kind is given by the code of the unit header (log 10). -/
def carriageBody (o : Carriage) : List Byte :=
  bytes2 (bytesHeld o) ++ bytes2 o.fifo.length ++
    optional (fun u => byte1 (kindCode u.kind) :: optFrame u.notBefore ++
      optional (fun k => [byte1 k]) u.story) o.fifo.head? ++
    countBytes o.unitsCarried ++ countBytes o.bytesCarried ++ countBytes o.round2Bytes ++
    countBytes o.splits ++ countBytes o.starved

/-! ### STORY and CUE (R87) -/

def storyFields (st : Story) : List Byte :=
  bytes2 st.first ++ [byte1 st.count] ++ bytes2 st.transfer ++
    optional (fun r => [byte1 r]) st.ring ++ [advanceByte st.advance, endActionByte st.endAction] ++
    optional (fun k => [byte1 k]) st.next ++ [flagByte st.endNotice]

/-- R87: the fields, whether the record is loaded, whether the story is complete, and its holder. -/
def storyBody (s : State) (k : Nat) : List Byte :=
  optional storyFields (storeGet k s.stories) ++
    [flagByte (storeGet k s.stories).isSome, flagByte (storyComplete s k)] ++
    optional (fun v => [byte1 v.val]) (holderOf s k)

/-- R87: the fields, and whether the record is loaded. -/
def cueBody (s : State) (k : Nat) : List Byte :=
  optional (fun c => counted (fun b => [b]) c.text ++ bytes2 c.interval) (storeGet k s.cues) ++
    [flagByte (storeGet k s.cues).isSome]

end Sys2Proof.Machine
end

