-- ==== Sys2Proof/Machine/Control.lean ====
section
/-! DEFINITION. In-band control (chapter 11): the filter of R12, the checks of R151, the fifteen requests, and
the meaning of each request's command. -/

namespace Sys2Proof.Machine

/-- What carrying out a request gives: the state, the reply code, and a reply body. -/
structure Handled where
  state : State
  code : ReplyCode
  body : List Byte

/-- R151: a refusal leaves the state as it was. -/
def refuse (c : ReplyCode) (s : State) : Handled := { state := s, code := c, body := [] }

/-- A request taken, with no body to its reply. -/
def accept (c : ReplyCode) (s : State) : Handled := { state := s, code := c, body := [] }

/-! ### The requests -/

/-- R152, R4: SET_DEVICE. -/
def doSetDevice (b : List Byte) (s : State) : Handled :=
  match parseDevice b with
  | .error c => refuse c s
  | .ok (d, clamped) => accept (okOr clamped) { s with device := d }

/-- R16, R26, R50: a line record replaced at PFN. -/
def loadRecord (pfn : Frame) (r : LineRecord) (x : Line) : Line :=
  let x1 := { x with
    record := r
    stamp := if r.enabled && !x.record.enabled then pfn else x.stamp
    lat := { x.lat with lest := 8 * r.l0 } }
  let release := (x.record.flow && !r.flow) || (x.record.enabled && !r.enabled)
  if release && x1.xoff then setXoff false x1 else x1

/-- R16, R26, R50: LOAD_LINE. -/
def doLoadLine (b : List Byte) (s : State) : Handled :=
  match parseLine b with
  | .error c => refuse c s
  | .ok (l, r, clamped) => accept (okOr clamped) (s.updLine l (loadRecord s.pfn r))

/-- R72: a line of the record is a line of an enabled service other than v. -/
def linesInUse (s : State) (v : ServiceIx) (r : ServiceRecord) : Bool :=
  fours.any fun u => decide (u ≠ v) &&
    ((r.primary.any fun l => hasLine (s.service u) l) ||
      (r.backup.any fun l => hasLine (s.service u) l))

/-- R119, R137: the parameters of an enabled service change; leaving POP_ON closes the open block. -/
def changeService (v : ServiceIx) (r : ServiceRecord) (s : State) : State :=
  let leaves := (s.service v).record.display = .popOn ∧ r.display = .rollUp
  let s1 := s.updService v fun x => { x with record := r }
  settle (if leaves then closeOpen v .ordinary s1 else s1)

/-- R71, R72: LOAD_SERVICE. The checks of R71 come before those of R72, where neither gives an order
(log 19). -/
def doLoadService (b : List Byte) (s : State) : Handled :=
  match parseService b with
  | .error c => refuse c s
  | .ok (v, r, clamped) =>
    let old := (s.service v).record
    if old.enabled then
      if r.enabled then
        if r.primary = old.primary ∧ r.backup = old.backup then
          accept (okOr clamped) (changeService v r s)
        else refuse .inUse s
      else
        accept (okOr clamped)
          (settle ((restartService v s).updService v fun x => { x with record := r }))
    else if r.enabled && linesInUse s v r then refuse .inUse s
    else accept (okOr clamped) (s.updService v fun x => { x with record := r })

/-- R142: LOAD_SLOTMAP. -/
def doLoadSlotmap (b : List Byte) (s : State) : Handled :=
  match parseSlots b with
  | none => refuse .badValue s
  | some m => accept .ok { s with pendingMap := some m }

/-- R88: LOAD_STORY. -/
def doLoadStory (b : List Byte) (s : State) : Handled :=
  let k := num1 b 0
  if 63 < k then refuse .badIndex s
  else if (holderOf s k).isSome then refuse .inUse s
  else if 511 < num2 b 1 ∨ 512 < num2 b 1 + num1 b 3 then refuse .badIndex s
  else
    match parseStory b with
    | .error c => refuse c s
    | .ok (st, clamped) =>
      accept (okOr clamped) { s with stories := storePut k st s.stories }

/-- R89, R151: the text of a LOAD_CUE body stands between the cue number and the interval (log 9). -/
def cueText (b : List Byte) : List Byte := (b.drop 2).take (b.length - 4)

/-- R89, R151: the interval stands in the last two bytes of a LOAD_CUE body (log 9). -/
def cueInterval (b : List Byte) : Nat := num2 b (b.length - 2)

/-- R89: LOAD_CUE. The checks are made in the order in which R89 names them; it gives none (log 19). -/
def doLoadCue (b : List Byte) (s : State) : Handled :=
  let k := num2 b 0
  if 511 < k then refuse .badIndex s
  else if cueLocked s k then refuse .inUse s
  else
    match checkText (cueText b) with
    | some c => refuse c s
    | none =>
      let i := clampNat 1 1500 (cueInterval b)
      accept (okOr (i != cueInterval b))
        { s with cues := storePut k { text := cueText b, interval := i } s.cues }

/-- R62, R64: LOAD_GPI. -/
def doLoadGpi (b : List Byte) (s : State) : Handled :=
  match parseGpi b with
  | .error c => refuse c s
  | .ok (i, r, clamped) =>
    accept (okOr clamped) (s.updInput i fun x => rebaseline { x with record := r })

/-- R91: ARM. -/
def doArm (b : List Byte) (s : State) : Handled :=
  match asFin4 (at1 b 0) with
  | none => refuse .badIndex s
  | some v =>
    let k := num1 b 1
    if 63 < k then refuse .badIndex s
    else if (s.service v).record.enabled = false then refuse .badValue s
    else if (s.service v).runner.phase ≠ .idle then refuse .busy s
    else
      match storeGet k s.stories with
      | none => refuse .incomplete s
      | some st =>
        if storyComplete s k = false then refuse .incomplete s
        else if heldElsewhere s v k then refuse .inUse s
        else accept .ok (s.updRunner v (armRunner k st))

/-- R92, R93, R104: ADVANCE. -/
def doAdvance (b : List Byte) (s : State) : Handled :=
  match asFin4 (at1 b 0) with
  | none => refuse .badIndex s
  | some v =>
    let x := s.service v
    if x.runner.phase = .idle ∨ x.runner.phase = .draining then refuse .notArmed s
    else if takesTrigger x then
      match issueCue v s.pfn s with
      | some t => accept .ok (settle t)
      | none => refuse .busy (cueRefused v s)
    else refuse .notScript s

/-- R100: CANCEL. -/
def doCancel (b : List Byte) (s : State) : Handled :=
  match asFin4 (at1 b 0) with
  | none => refuse .badIndex s
  | some v =>
    let r := (s.service v).runner
    match r.phase with
    | .idle => refuse .notArmed s
    | .armed => accept .ok (s.updRunner v idleRunner)
    | .draining => accept .ok s
    | .running | .suspended =>
      match r.story with
      | some k => accept .ok (settle (startDrain v k s))
      | none => accept .ok (s.updRunner v idleRunner)

/-- R83: the line that a choice names. -/
def namedLine (x : Service) : Choice → Option LineIx
  | .primary => x.record.primary
  | .backup => x.record.backup

/-- R83: SELECT. The service number is checked before the selection, where R83 gives no order (log 19). -/
def doSelect (b : List Byte) (s : State) : Handled :=
  match asFin4 (at1 b 0) with
  | none => refuse .badIndex s
  | some v =>
    if (s.service v).record.enabled = false then refuse .badValue s
    else
      match asSelected (at1 b 1) with
      | none => refuse .badValue s
      | some (.mode m) => accept .ok (settle (setMode v m s))
      | some (.choice c) =>
        if (namedLine (s.service v) c).isNone then refuse .badValue s
        else if (s.service v).sel.choice = c then accept .ok s
        else accept .ok (settle (switchLine v c s))

/-- R153, R139: CLEAR. -/
def doClear (b : List Byte) (s : State) : Handled :=
  match asFin4 (at1 b 0) with
  | none => refuse .badIndex s
  | some v =>
    if (s.service v).record.enabled = false then refuse .badValue s
    else accept .ok (settle (clearService v s))

/-- R86: RESTART. -/
def doRestart (b : List Byte) (s : State) : Handled :=
  match asFin4 (at1 b 0) with
  | none => refuse .badIndex s
  | some v =>
    if (s.service v).record.enabled = false then accept .ok s
    else accept .ok (settle (restartService v s))

/-! ### Soft reset (R159) -/

/-- R159 step 1, R32, R49, and step 4, R61: a line under soft reset. -/
def softLine (pfn : Frame) (x : Line) : Line :=
  setXoff false { x with
    fifo := [], overrunOpen := false, commandPending := false, stamp := pfn
    received := 0, parityErrors := 0, framingErrors := 0, overruns := 0, discards := 0
    asm := resetAssembler
    lat := { resetLatency with lest := 8 * x.record.l0 } }

/-- R159 step 3: the counts of a service and its blocks. -/
def softCounts (x : Service) : Service :=
  { x with
    sel := { x.sel with failovers := 0, standbyDropped := 0, standbyExpired := 0, mergeLost := 0,
                        holds := 0, muteDiscards := 0 }
    onsets := { x.onsets with admitted := 0, dropped := 0, expired := 0 }
    runner := { x.runner with issued := 0, ignored := 0, lost := 0, deferrals := 0 }
    sched := { x.sched with fullRefusals := 0, releases := 0, stalls := 0 }
    cb := { x.cb with blocksClosed := 0, holdExpiries := 0, slips := 0, timedClears := 0 }
    om := { x.om with unitsCarried := 0, bytesCarried := 0, round2Bytes := 0, splits := 0,
                      starved := 0 } }

/-- R64, R70: an input under soft reset. -/
def softInput (x : Input) : Input := { rebaseline x with asserts := 0, deasserts := 0 }

/-- R159: SOFT_RESET, less its reply. -/
def softReset (s : State) : State :=
  { s with
    lines := s.lines.map (softLine s.pfn)
    services := s.services.map fun x => softCounts (restartedService x)
    inputs := s.inputs.map softInput
    ci := resetControl }

/-! ### QUERY (R154) -/

/-- R154: the part is one that the table gives for the target. -/
def partKnown (t : QueryTarget) (part : Nat) : Bool :=
  match t with
  | .service => decide (part ≤ 2)
  | _ => decide (part = 0)

/-- R154: the index is above the range of its target. -/
def indexBad (t : QueryTarget) (ix : Nat) : Bool :=
  match t with
  | .device => false
  | .line => decide (3 < ix)
  | .service => decide (3 < ix)
  | .story => decide (63 < ix)
  | .cue => decide (511 < ix)

/-- A number below 4 as a line or service number. -/
def ix4 (n : Nat) : Fin 4 := Fin.ofNat 4 n

/-- R154: the reply body of a query. -/
def queryBody (t : QueryTarget) (ix part : Nat) (s : State) : List Byte :=
  match t with
  | .device => deviceBody s
  | .line => lineBody (s.line (ix4 ix)) ++ assemblerBody (s.line (ix4 ix)) ++
      latencyBody (s.line (ix4 ix))
  | .service =>
    if part = 0 then selectionBody (s.service (ix4 ix))
    else if part = 1 then runnerBody s (ix4 ix) ++ schedulerBody (s.service (ix4 ix)).sched
    else builderBody (s.service (ix4 ix)).cb ++ carriageBody (s.service (ix4 ix)).om
  | .story => storyBody s ix
  | .cue => cueBody s ix

/-- R154: the figures that a query clears when it has read them. -/
def queryClears (t : QueryTarget) (ix part : Nat) (s : State) : State :=
  match t with
  | .device => s.updCi fun c => { c with droppedNotice := false }
  | .service =>
    if part = 1 then s.updSched (ix4 ix) fun q => { q with maxLateness := 0, maxLag := 0 } else s
  | _ => s

/-- R154: QUERY. The target and the part are checked before the index, where R154 gives no order
(log 19). -/
def doQuery (b : List Byte) (s : State) : Handled :=
  match asTarget (at1 b 0) with
  | none => refuse .badValue s
  | some t =>
    let ix := num2 b 1
    let part := num1 b 3
    if !partKnown t part then refuse .badValue s
    else if indexBad t ix then refuse .badIndex s
    else { state := queryClears t ix part s, code := .ok, body := queryBody t ix part s }

/-! ### A control arrival (R12, R151, R155) -/

/-- R151: the reply code says that the request was taken. -/
def isTaken : ReplyCode → Bool
  | .ok => true
  | .clamped => true
  | _ => false

/-- R151: the request is counted. -/
def countRequest (c : ReplyCode) (k : Control) : Control :=
  if isTaken c then { k with taken := bump k.taken } else { k with refused := bump k.refused }

/-- R151, R155: the request is counted and its reply joins the report queue. -/
def answer (kind : Byte) (p : Request) (h : Handled) : State :=
  h.state.updCi fun c => joinReply (.reply p.tag kind h.code h.body) (countRequest h.code c)

/-- R151 step 2: the announced length fits the kind and the body is not cut short. -/
def lengthFits (fits : Nat → Bool) (p : Request) : Bool :=
  fits p.len.toNat && decide (p.len.toNat ≤ 120) && decide (p.len.toNat ≤ p.body.length)

/-- R151: a request of a known kind is checked and carried out; `fits` says which lengths fit the kind. -/
def interpret (fits : Nat → Bool) (handler : List Byte → State → Handled) (p : Request)
    (s : State) : Handled :=
  if lengthFits fits p then handler (p.body.take p.len.toNat) s else refuse .malformed s

/-- The bytes of a control packet (section 11.6). -/
def controlBytes (kind : Byte) (p : Request) : List Byte :=
  [0x62#8, p.addr, p.tag, kind, p.len] ++ p.body

/-- An ancillary packet goes out in the outgoing frame unchanged (R12, R13). -/
def forward (packet : List Byte) (s : State) : State := { s with out := s.out ++ [packet] }

/-- R8, R10, R15: control arrivals and carriage points are taken in LOCKED, and nothing while the RESET pin is
low. -/
def takesPackets (s : State) : Bool := !s.resetLow && decide (s.ref = .locked)

/-- R12: one control arrival, after the frame-start work of its frame (R1). -/
def controlArrival (kind : Byte) (p : Request) (carry : Request → State → Handled) (s : State) :
    State :=
  if takesPackets s then
    let s1 := finishWork s
    if p.addr.toNat = s1.device.address then answer kind p (carry p s1)
    else if p.addr = 15#8 then answer kind p (carry p (forward (controlBytes kind p) s1))
    else forward (controlBytes kind p) s1
  else s

/-- R151 step 3, R159: SOFT_RESET counts itself before it clears the counts. -/
def answerSoftReset (p : Request) (h : Handled) : State :=
  if isTaken h.code then
    (softReset h.state).updCi (joinReply (.reply p.tag 14#8 h.code h.body))
  else answer 14#8 p h

/-- R12, R159: the control arrival of a SOFT_RESET. -/
def softResetArrival (p : Request) (s : State) : State :=
  let carry := interpret (fun n => decide (n = 0)) (fun _ t => accept .ok t)
  if takesPackets s then
    let s1 := finishWork s
    if p.addr.toNat = s1.device.address then answerSoftReset p (carry p s1)
    else if p.addr = 15#8 then
      answerSoftReset p (carry p (forward (controlBytes 14#8 p) s1))
    else forward (controlBytes 14#8 p) s1
  else s

def setDeviceArrival (p : Request) (s : State) : State :=
  controlArrival 1#8 p (interpret (fun n => decide (n = 4)) doSetDevice) s

def loadLineArrival (p : Request) (s : State) : State :=
  controlArrival 2#8 p (interpret (fun n => decide (n = 15)) doLoadLine) s

def loadServiceArrival (p : Request) (s : State) : State :=
  controlArrival 3#8 p (interpret (fun n => decide (n = 23)) doLoadService) s

def loadSlotmapArrival (p : Request) (s : State) : State :=
  controlArrival 4#8 p (interpret (fun n => decide (n = 12)) doLoadSlotmap) s

def loadStoryArrival (p : Request) (s : State) : State :=
  controlArrival 5#8 p (interpret (fun n => decide (n = 11)) doLoadStory) s

def loadCueArrival (p : Request) (s : State) : State :=
  controlArrival 6#8 p (interpret (fun n => decide (5 ≤ n)) doLoadCue) s

def loadGpiArrival (p : Request) (s : State) : State :=
  controlArrival 7#8 p (interpret (fun n => decide (n = 5)) doLoadGpi) s

def armArrival (p : Request) (s : State) : State :=
  controlArrival 8#8 p (interpret (fun n => decide (n = 2)) doArm) s

def advanceArrival (p : Request) (s : State) : State :=
  controlArrival 9#8 p (interpret (fun n => decide (n = 1)) doAdvance) s

def cancelArrival (p : Request) (s : State) : State :=
  controlArrival 10#8 p (interpret (fun n => decide (n = 1)) doCancel) s

def selectArrival (p : Request) (s : State) : State :=
  controlArrival 11#8 p (interpret (fun n => decide (n = 2)) doSelect) s

def clearArrival (p : Request) (s : State) : State :=
  controlArrival 12#8 p (interpret (fun n => decide (n = 1)) doClear) s

def restartArrival (p : Request) (s : State) : State :=
  controlArrival 13#8 p (interpret (fun n => decide (n = 1)) doRestart) s

def queryArrival (p : Request) (s : State) : State :=
  controlArrival 15#8 p (interpret (fun n => decide (n = 4)) doQuery) s

/-- R151 step 1: a request of an unknown kind is refused with UNKNOWN, whatever its length. -/
def unknownArrival (kind : Byte) (p : Request) (s : State) : State :=
  controlArrival kind p (fun _ t => refuse .unknown t) s

/-- R151: a control packet by its kind byte. -/
def arrivalOfKind (kind : Byte) (p : Request) (s : State) : State :=
  match kind.toNat with
  | 1 => setDeviceArrival p s
  | 2 => loadLineArrival p s
  | 3 => loadServiceArrival p s
  | 4 => loadSlotmapArrival p s
  | 5 => loadStoryArrival p s
  | 6 => loadCueArrival p s
  | 7 => loadGpiArrival p s
  | 8 => armArrival p s
  | 9 => advanceArrival p s
  | 10 => cancelArrival p s
  | 11 => selectArrival p s
  | 12 => clearArrival p s
  | 13 => restartArrival p s
  | 14 => softResetArrival p s
  | 15 => queryArrival p s
  | _ => unknownArrival kind p s

/-- R12, R13: an ancillary packet of an incoming frame, by its bytes. A CAPTION packet is removed, a
CONTROL packet is a control arrival or is forwarded when it is shorter than its header, and any other
packet passes unchanged. -/
def ancillary (packet : List Byte) (s : State) : State :=
  match packet with
  | c :: rest =>
    if c = 0x61#8 then s
    else if c = 0x62#8 then
      match rest with
      | a :: tag :: kind :: len :: body =>
        arrivalOfKind kind { addr := a, tag := tag, len := len, body := body } s
      | _ => if takesPackets s then forward packet (finishWork s) else s
    else if takesPackets s then forward packet s else s
  | [] => s

/-! ### The commands -/

/-- R4, R5, R6, R152: SET_DEVICE. -/
def execSetDevice (p : Request) (s : State) : Host.Outcome State Fault Refusal :=
  .next (setDeviceArrival p s)

/-- R16, R26, R50: LOAD_LINE. -/
def execLoadLine (p : Request) (s : State) : Host.Outcome State Fault Refusal :=
  .next (loadLineArrival p s)

/-- R71, R72, R119, R137: LOAD_SERVICE. -/
def execLoadService (p : Request) (s : State) : Host.Outcome State Fault Refusal :=
  .next (loadServiceArrival p s)

/-- R142: LOAD_SLOTMAP. -/
def execLoadSlotmap (p : Request) (s : State) : Host.Outcome State Fault Refusal :=
  .next (loadSlotmapArrival p s)

/-- R88: LOAD_STORY. -/
def execLoadStory (p : Request) (s : State) : Host.Outcome State Fault Refusal :=
  .next (loadStoryArrival p s)

/-- R89: LOAD_CUE. -/
def execLoadCue (p : Request) (s : State) : Host.Outcome State Fault Refusal :=
  .next (loadCueArrival p s)

/-- R62, R64: LOAD_GPI. -/
def execLoadGpi (p : Request) (s : State) : Host.Outcome State Fault Refusal :=
  .next (loadGpiArrival p s)

/-- R91: ARM. -/
def execArm (p : Request) (s : State) : Host.Outcome State Fault Refusal :=
  .next (armArrival p s)

/-- R92, R93: ADVANCE. -/
def execAdvance (p : Request) (s : State) : Host.Outcome State Fault Refusal :=
  .next (advanceArrival p s)

/-- R100: CANCEL. -/
def execCancel (p : Request) (s : State) : Host.Outcome State Fault Refusal :=
  .next (cancelArrival p s)

/-- R83: SELECT. -/
def execSelect (p : Request) (s : State) : Host.Outcome State Fault Refusal :=
  .next (selectArrival p s)

/-- R153: CLEAR. -/
def execClear (p : Request) (s : State) : Host.Outcome State Fault Refusal :=
  .next (clearArrival p s)

/-- R86: RESTART. -/
def execRestart (p : Request) (s : State) : Host.Outcome State Fault Refusal :=
  .next (restartArrival p s)

/-- R159: SOFT_RESET. -/
def execSoftReset (p : Request) (s : State) : Host.Outcome State Fault Refusal :=
  .next (softResetArrival p s)

/-- R154: QUERY. -/
def execQuery (p : Request) (s : State) : Host.Outcome State Fault Refusal :=
  .next (queryArrival p s)

/-- R151 step 1: UNKNOWN_REQUEST. A packet whose kind is one of the fifteen after all is that request. -/
def execUnknownRequest (kind : Byte) (p : Request) (s : State) :
    Host.Outcome State Fault Refusal :=
  .next (arrivalOfKind kind p s)

/-- R13: CAPTION_PACKET_REMOVED. -/
def execCaptionPacketRemoved (packet : List Byte) (s : State) :
    Host.Outcome State Fault Refusal :=
  .next (ancillary packet s)

/-- R12: CONTROL_PACKET_FORWARDED. -/
def execControlPacketForwarded (packet : List Byte) (s : State) :
    Host.Outcome State Fault Refusal :=
  .next (ancillary packet s)

end Sys2Proof.Machine
end

