-- ==== Sys2Proof/Machine/FramePort.lean ====
section
/-! DEFINITION. The frame port's own commands (chapter 1): resets, frame starts, expiries, carriage points. -/

namespace Sys2Proof.Machine

/-- R15: while the RESET pin is held low the device acts on nothing. -/
def whenAwake (s : State) (f : State → State) : State := if s.resetLow then s else f s

/-! ### Resets -/

/-- R15, R160: POWER_ON_RESET. The level of the RESET pin and the waiting commands are not the device's
(log 6). -/
def execPowerOnReset (s : State) : Host.Outcome State Fault Refusal :=
  .next { State.reset with resetLow := s.resetLow, pending := s.pending }

/-- R31: a line when the RESET pin falls: a character being received is lost, one being sent is cut short.
The receiver then watches, of which R31 says nothing (log 15). -/
def cutShort (x : Line) : Line := { x with receiver := .watching, sending := none }

/-- R15, R31: RESET_PIN_ASSERT. The current frame is abandoned. -/
def execResetPinAssert (s : State) : Host.Outcome State Fault Refusal :=
  .next { s with resetLow := true, due := [], out := [], lines := s.lines.map cutShort }

/-- R15: RESET_PIN_RELEASE acts as power-on reset. -/
def execResetPinRelease (s : State) : Host.Outcome State Fault Refusal :=
  .next { State.reset with pending := s.pending }

/-! ### Frame starts -/

/-- R7, R8, R9, R11: LOCKED is entered or kept, and the timer restarted for the loss threshold. -/
def lockTimer (s : State) : State :=
  { s with ref := .locked, timer := .running 3 s.device.fps }

/-- R8, R9, R11: a real frame start. REFERENCE_RESTORED joins the report queue in this event, before any notice
of the frame-start work that it delivers, where R11 and R156 give no order (log 21). -/
def realFrame (levels : BitVec 8) (s : State) : State :=
  match s.ref with
  | .seeking => lockTimer (beginFrame levels { s with pfn := 0 })
  | .locked => lockTimer (beginFrame levels (finishWork s))
  | .freewheel =>
    let s1 := lockTimer (beginFrame levels (finishWork s))
    raise (.referenceRestored s1.pfn s1.internalFrames) s1

/-- R1, R8, R9, R11: FRAME_START. -/
def execFrameStart (levels : BitVec 8) (s : State) : Host.Outcome State Fault Refusal :=
  .next (whenAwake s (realFrame levels))

/-- R7, R10: the timer restarted for one period, at an internal frame start. -/
def freeTimer (s : State) : State := { s with timer := .running 1 s.device.fps }

/-- R9: the loss of the reference, with its three internal frames. -/
def loseReference (levels : BitVec 8) (f1 f2 f3 : InternalFrame) (s : State) : State :=
  let s0 := finishWork s
  let s1 := raise (.referenceLost s0.pfn) { s0 with ref := .freewheel, internalFrames := 0 }
  freeTimer (internalFrame levels f3 (internalFrame levels f2 (internalFrame levels f1 s1)))

/-- R9: LOSS_THRESHOLD_EXPIRY, in LOCKED. -/
def execLossThresholdExpiry (levels : BitVec 8) (f1 f2 f3 : InternalFrame) (s : State) :
    Host.Outcome State Fault Refusal :=
  .next (whenAwake s fun t =>
    if t.ref = .locked then loseReference levels f1 f2 f3 t else t)

/-- R10: FRAME_TIMER_EXPIRY, in FREEWHEEL. -/
def execFrameTimerExpiry (levels : BitVec 8) (f : InternalFrame) (s : State) :
    Host.Outcome State Fault Refusal :=
  .next (whenAwake s fun t =>
    if t.ref = .freewheel then freeTimer (internalFrame levels f (finishWork t)) else t)

/-- R14: CARRIAGE_POINT, in LOCKED. -/
def execCarriagePoint (drainFirst : BitVec 4) (s : State) : Host.Outcome State Fault Refusal :=
  .next (if takesPackets s then realCarriage drainFirst (finishWork s) else s)

end Sys2Proof.Machine
end

