-- ==== Sys2Proof/Machine/Events.lean ====
section
/-! DEFINITION. The commands of the steno wire, and those that name one piece of the device's own work. -/

namespace Sys2Proof.Machine

/-! ### The steno wire -/

/-- R17: START_BIT_DETECTED. -/
def execStartBitDetected (l : LineIx) (highAtMiddle : Bool) (s : State) :
    Host.Outcome State Fault Refusal :=
  .next (whenAwake s fun t => t.updLine l (startBit highAtMiddle))

/-- R17: WIRE_SEEN_HIGH. -/
def execWireSeenHigh (l : LineIx) (s : State) : Host.Outcome State Fault Refusal :=
  .next (whenAwake s fun t => t.updLine l wireHigh)

/-- R16 to R21: the character that a line has been timing ends at the middle of its stop bit. -/
def character (l : LineIx) (data : Byte) (parityBit stopBit : Bool) (s : State) : State :=
  match recordInForce (s.line l) with
  | some r => if r.enabled then settle (receive l r data parityBit stopBit s) else s.updLine l passOver
  | none => s

/-- R17: CHARACTER_RECEIVED. -/
def execCharacterReceived (l : LineIx) (data : Byte) (parityBit stopBit : Bool) (s : State) :
    Host.Outcome State Fault Refusal :=
  .next (whenAwake s (character l data parityBit stopBit))

/-- R25: TRANSMIT_COMPLETE. -/
def execTransmitComplete (l : LineIx) (s : State) : Host.Outcome State Fault Refusal :=
  .next (whenAwake s fun t => t.updLine l sent)

/-! ### Frame-start work -/

/-- R38: FLUSH_DELAY_EXPIRY. -/
def execFlushDelayExpiry (l : LineIx) (s : State) : Host.Outcome State Fault Refusal :=
  .next (whenAwake s (runWork (.flush l)))

/-- R41: HELD_WORD_RETRY, the retry at a frame start. -/
def execHeldWordRetry (l : LineIx) (s : State) : Host.Outcome State Fault Refusal :=
  .next (whenAwake s (runWork (.retry l)))

/-- R63, R65: GPI_EDGE_ACCEPTED. -/
def execGpiEdgeAccepted (i : InputIx) (s : State) : Host.Outcome State Fault Refusal :=
  .next (whenAwake s (runWork (.edge i)))

/-- R53: ONSET_EXPIRY. -/
def execOnsetExpiry (v : ServiceIx) (s : State) : Host.Outcome State Fault Refusal :=
  .next (whenAwake s (runWork (.onsetExpiry v)))

/-- R75: STANDBY_AGE_OUT. -/
def execStandbyAgeOut (v : ServiceIx) (s : State) : Host.Outcome State Fault Refusal :=
  .next (whenAwake s (runWork (.ageOut v)))

/-- R81: STENOGRAPHER_HOLD_EXPIRY. -/
def execStenographerHoldExpiry (v : ServiceIx) (s : State) : Host.Outcome State Fault Refusal :=
  .next (whenAwake s (runWork (.holdEnd v)))

/-- R76, R77, R78: SILENCE_LIMIT_REACHED. -/
def execSilenceLimitReached (v : ServiceIx) (s : State) : Host.Outcome State Fault Refusal :=
  .next (whenAwake s (runWork (.silence v)))

/-- R95: TIMED_ISSUE. -/
def execTimedIssue (v : ServiceIx) (s : State) : Host.Outcome State Fault Refusal :=
  .next (whenAwake s (runWork (.timed v)))

/-- R113: ROLL_UP_RELEASE, the serving of one cue queue. -/
def execRollUpRelease (v : ServiceIx) (s : State) : Host.Outcome State Fault Refusal :=
  .next (whenAwake s (runWork (.serve v)))

/-- R129: BLOCK_HOLD_EXPIRY. -/
def execBlockHoldExpiry (v : ServiceIx) (s : State) : Host.Outcome State Fault Refusal :=
  .next (whenAwake s (runWork (.blockHold v)))

/-- R134: BLOCK_APPEND, the attempt of a frame start. -/
def execBlockAppend (v : ServiceIx) (s : State) : Host.Outcome State Fault Refusal :=
  .next (whenAwake s (runWork (.append v)))

/-- R126: STALE_CLEAR. -/
def execStaleClear (v : ServiceIx) (s : State) : Host.Outcome State Fault Refusal :=
  .next (whenAwake s (runWork (.stale v)))

/-- R136: DMAX_CLEAR. -/
def execDmaxClear (v : ServiceIx) (s : State) : Host.Outcome State Fault Refusal :=
  .next (whenAwake s (runWork (.dmax v)))

/-- R101: DRAIN_COMPLETE, the drain check that follows a packet assembly. -/
def execDrainComplete (v : ServiceIx) (s : State) : Host.Outcome State Fault Refusal :=
  .next (whenAwake s (runWork (.drain v)))

/-! ### The builder's reactions (log 4) -/

/-- A reaction taken by name, with the reactions that follow it. -/
def takeReaction (f : State → Option State) (s : State) : State :=
  match f s with
  | some t => settle t
  | none => s

/-- R116: POP_ON_TAKE. -/
def execPopOnTake (v : ServiceIx) (s : State) : Host.Outcome State Fault Refusal :=
  .next (whenAwake s (takeReaction (takeHead v)))

/-- R128: PENDING_CLOSING. -/
def execPendingClosing (v : ServiceIx) (s : State) : Host.Outcome State Fault Refusal :=
  .next (whenAwake s (takeReaction (carryOutClosing v)))

/-- R131: CUE_BLOCK_FORMATION. -/
def execCueBlockFormation (v : ServiceIx) (s : State) : Host.Outcome State Fault Refusal :=
  .next (whenAwake s (takeReaction (formBlock v)))

/-! ### With no command waiting -/

/-- With no command waiting the device takes the first piece of work that is due, and idles when none is
(log 1). -/
def idle (s : State) : State :=
  match s.due with
  | [] => s
  | w :: _ => whenAwake s (doWork w)

end Sys2Proof.Machine
end

