-- ==== Sys2Proof/Machine/Dispatch.lean ====
section
/-! DEFINITION. The dispatch: one arm for each command. -/

namespace Sys2Proof.Machine

def exec (i : Instr) (s : State) : Host.Outcome State Fault Refusal :=
  match i with
  | .powerOnReset => Sys2Proof.Machine.execPowerOnReset s
  | .resetPinAssert => Sys2Proof.Machine.execResetPinAssert s
  | .resetPinRelease => Sys2Proof.Machine.execResetPinRelease s
  | .frameStart levels => Sys2Proof.Machine.execFrameStart levels s
  | .lossThresholdExpiry levels f1 f2 f3 => Sys2Proof.Machine.execLossThresholdExpiry levels f1 f2 f3 s
  | .frameTimerExpiry levels f => Sys2Proof.Machine.execFrameTimerExpiry levels f s
  | .carriagePoint drainFirst => Sys2Proof.Machine.execCarriagePoint drainFirst s
  | .captionPacketRemoved packet => Sys2Proof.Machine.execCaptionPacketRemoved packet s
  | .controlPacketForwarded packet => Sys2Proof.Machine.execControlPacketForwarded packet s
  | .unknownRequest kind p => Sys2Proof.Machine.execUnknownRequest kind p s
  | .setDevice p => Sys2Proof.Machine.execSetDevice p s
  | .loadLine p => Sys2Proof.Machine.execLoadLine p s
  | .loadService p => Sys2Proof.Machine.execLoadService p s
  | .loadSlotmap p => Sys2Proof.Machine.execLoadSlotmap p s
  | .loadStory p => Sys2Proof.Machine.execLoadStory p s
  | .loadCue p => Sys2Proof.Machine.execLoadCue p s
  | .loadGpi p => Sys2Proof.Machine.execLoadGpi p s
  | .arm p => Sys2Proof.Machine.execArm p s
  | .advance p => Sys2Proof.Machine.execAdvance p s
  | .cancel p => Sys2Proof.Machine.execCancel p s
  | .select p => Sys2Proof.Machine.execSelect p s
  | .clear p => Sys2Proof.Machine.execClear p s
  | .restart p => Sys2Proof.Machine.execRestart p s
  | .softReset p => Sys2Proof.Machine.execSoftReset p s
  | .query p => Sys2Proof.Machine.execQuery p s
  | .characterReceived l data parityBit stopBit => Sys2Proof.Machine.execCharacterReceived l data parityBit stopBit s
  | .transmitComplete l => Sys2Proof.Machine.execTransmitComplete l s
  | .flushDelayExpiry l => Sys2Proof.Machine.execFlushDelayExpiry l s
  | .heldWordRetry l => Sys2Proof.Machine.execHeldWordRetry l s
  | .gpiEdgeAccepted g => Sys2Proof.Machine.execGpiEdgeAccepted g s
  | .onsetExpiry v => Sys2Proof.Machine.execOnsetExpiry v s
  | .standbyAgeOut v => Sys2Proof.Machine.execStandbyAgeOut v s
  | .stenographerHoldExpiry v => Sys2Proof.Machine.execStenographerHoldExpiry v s
  | .silenceLimitReached v => Sys2Proof.Machine.execSilenceLimitReached v s
  | .timedIssue v => Sys2Proof.Machine.execTimedIssue v s
  | .rollUpRelease v => Sys2Proof.Machine.execRollUpRelease v s
  | .popOnTake v => Sys2Proof.Machine.execPopOnTake v s
  | .pendingClosing v => Sys2Proof.Machine.execPendingClosing v s
  | .cueBlockFormation v => Sys2Proof.Machine.execCueBlockFormation v s
  | .blockHoldExpiry v => Sys2Proof.Machine.execBlockHoldExpiry v s
  | .blockAppend v => Sys2Proof.Machine.execBlockAppend v s
  | .staleClear v => Sys2Proof.Machine.execStaleClear v s
  | .dmaxClear v => Sys2Proof.Machine.execDmaxClear v s
  | .drainComplete v => Sys2Proof.Machine.execDrainComplete v s
  | .startBitDetected l highAtMiddle => Sys2Proof.Machine.execStartBitDetected l highAtMiddle s
  | .wireSeenHigh l => Sys2Proof.Machine.execWireSeenHigh l s

end Sys2Proof.Machine
end

