-- ==== Sys2Proof/Safety.lean ====
section
/-! DEFINITION. What the statements are about: the settings that the running of the device leaves alone, the
laws that every state of a run keeps, and the words in which statements speak of requests and reactions. -/

namespace Sys2Proof.Machine

/-! ### What no reaction and no frame-start work touches -/

/-- The tables and settings of the device, the frame port's state, and the model's agenda. -/
structure Settings where
  resetLow : Bool
  pfn : Frame
  ref : RefState
  timer : FrameTimer
  internalFrames : BitVec 32
  device : DeviceRecord
  stories : List (Nat × Story)
  cues : List (Nat × Cue)
  slotMap : SlotMap
  pendingMap : Option SlotMap
  out : List (List Byte)
  due : List Work
  pending : List Instr
  lineRecords : Quad LineRecord
  serviceRecords : Quad ServiceRecord
  inputRecords : Oct GpiRecord
  deriving DecidableEq, Repr

/-- The settings of a state. -/
def State.settings (s : State) : Settings :=
  { resetLow := s.resetLow, pfn := s.pfn, ref := s.ref, timer := s.timer
    internalFrames := s.internalFrames, device := s.device, stories := s.stories, cues := s.cues
    slotMap := s.slotMap, pendingMap := s.pendingMap, out := s.out, due := s.due
    pending := s.pending, lineRecords := s.lines.map Line.record
    serviceRecords := s.services.map Service.record, inputRecords := s.inputs.map Input.record }

/-! ### The capacities (R21, R33, R39, R52, R74, R104, R134, R140, R155) -/

/-- R39: a word record holds between 1 and 32 glyphs. -/
def WordFits (w : WordRecord) : Prop := 1 ≤ w.glyphs.length ∧ w.glyphs.length ≤ Config.wordLimit

/-- R39: the held item of an assembler, if it is a word, is a word record. -/
def HeldFits : Option Held → Prop
  | some { item := .word w, .. } => WordFits w
  | _ => True

/-- R39: an entry's word, if it carries one, is a word record. -/
def EntryFits (e : Entry) : Prop :=
  match e.body with
  | .word w => WordFits w
  | _ => True

/-- R21, R33: a line within its capacities. The 32nd glyph completes a word, so fewer stand under
assembly. -/
structure LineFits (x : Line) : Prop where
  intake : x.fifo.length ≤ Config.intakeCapacity
  glyphs : x.asm.glyphs.length < Config.wordLimit
  held : HeldFits x.asm.held

/-- R52, R74, R104, R134, R140: a service within its capacities. -/
structure ServiceFits (x : Service) : Prop where
  standby : x.sel.standby.length ≤ Config.standbyCapacity
  standbyWords : ∀ w ∈ x.sel.standby, WordFits w
  onsets : x.onsets.frames.length ≤ Config.onsetCapacity
  queue : x.sched.queue.length ≤ Config.queueCapacity
  entries : ∀ e ∈ x.sched.queue, EntryFits e
  placed : ∀ p ∈ x.cb.openBlock.words, WordFits p.word
  carry : ∀ c, x.cb.openBlock.carry = some c → WordFits c.word
  blocks : x.cb.blocks.length ≤ Config.blockCapacity
  output : bytesHeld x.om ≤ Config.fifoCapacity

/-- R155, R156: the report queue holds at most 16 reports. -/
def ReportsFit (c : Control) : Prop := c.reports.length ≤ Config.reportCapacity

/-- Every queue, FIFO and list is within its capacity, and every word is a word record. -/
structure WithinCapacity (s : State) : Prop where
  lines : ∀ l, LineFits (s.line l)
  services : ∀ v, ServiceFits (s.service v)
  reports : ReportsFit s.ci

/-! ### The ranges of the settings (sections 1.3, 2.1, 3.1, 4.1, 5.1, 6.1) and of Lest (R51) -/

structure LineRanges (x : Line) : Prop where
  flush : 1 ≤ x.record.flushDelay ∧ x.record.flushDelay ≤ 250
  l0 : x.record.l0 ≤ 511
  window : x.record.lmin ≤ x.record.lmax ∧ x.record.lmax ≤ 511
  substitute : 0x20 ≤ x.record.substitute.toNat ∧ x.record.substitute.toNat ≤ 0x7E
  lest : x.lat.lest ≤ 4088

structure ServiceRanges (r : ServiceRecord) : Prop where
  width : 16 ≤ r.width ∧ r.width ≤ 42
  rows : 1 ≤ r.rows ∧ r.rows ≤ 3
  reading : 8 ≤ r.readingRate ∧ r.readingRate ≤ 30
  dmin : 12 ≤ r.dmin ∧ r.dmin ≤ 250
  dmax : r.dmin ≤ r.dmax ∧ r.dmax ≤ 1500
  holdLimit : 12 ≤ r.holdLimit ∧ r.holdLimit ≤ 250
  tclear : r.tclear = 0 ∨ 50 ≤ r.tclear ∧ r.tclear ≤ 3000
  fs : r.fs = 0 ∨ 50 ≤ r.fs ∧ r.fs ≤ 3000
  fh : r.fh ≤ 6000
  sofs : -64 ≤ r.sofs ∧ r.sofs ≤ 64
  priority : r.priority ≤ 3
  gap : 5 ≤ r.gap ∧ r.gap ≤ 250

/-- Every setting lies in its range, and every estimate within 0 to 4088 eighths. -/
structure InRange (s : State) : Prop where
  delay : s.device.delay ≤ 600
  address : s.device.address ≤ 14
  lines : ∀ l, LineRanges (s.line l)
  services : ∀ v, ServiceRanges (s.service v).record
  inputs : ∀ i, (s.input i).record.nr ≤ 7

/-! ### The form of an assembler (section 3.1, R41, R42, R43) -/

/-- F is present exactly while a word is under assembly; only such a word is retracted or carries flags; a
stalled assembler has none; a CLEAR marker is pending only behind a held word. -/
structure AssemblerForm (a : Assembler) : Prop where
  first : a.first.isSome ↔ a.glyphs ≠ []
  retracted : a.retracted.isSome → a.glyphs ≠ []
  carried : a.carriedSpeaker = true ∨ a.carriedBreak = true ∨ a.carriedCont = true → a.glyphs ≠ []
  stalled : a.held.isSome → a.glyphs = []
  clearPending : a.clearPending.isSome → a.held.isSome

/-- Every assembler has its form. -/
def AssemblersFormed (s : State) : Prop := ∀ l, AssemblerForm (s.line l).asm

/-! ### The form of a runner (section 7.2, R90, R94, R99) -/

/-- R90: a runner in IDLE. -/
structure IdleForm (r : Runner) : Prop where
  story : r.story = none
  pointer : r.pointer = 0
  remaining : r.remaining = 0
  lastCueT : r.lastCueT = none
  nextBase : r.nextBase = none
  timingHeld : r.timingHeld = false

/-- A runner holds a story exactly when it is not in IDLE; a RUNNING runner's service is in SCRIPT mode and a
SUSPENDED one's in LIVE mode; either has at least one cue left to issue. -/
structure RunnerForm (x : Service) : Prop where
  idle : x.runner.phase = .idle → IdleForm x.runner
  holds : x.runner.phase ≠ .idle → x.runner.story.isSome
  running : x.runner.phase = .running → x.sel.mode = .script ∧ 1 ≤ x.runner.remaining
  suspended : x.runner.phase = .suspended → x.sel.mode = .live ∧ 1 ≤ x.runner.remaining

/-- Every runner has its form. -/
def RunnersFormed (s : State) : Prop := ∀ v, RunnerForm (s.service v)

/-! ### The transmitters (R25) -/

/-- R25: unless the RESET pin is low, an idle transmitter's last byte sent is the one the XOFF mark calls
for. -/
def TransmittersFollow (s : State) : Prop :=
  s.resetLow = false → ∀ l, (s.line l).sending = none → (s.line l).lastSent = calledFor (s.line l)

/-- R24: with flow control off, the XOFF mark is never set. -/
def MarksFollowFlow (s : State) : Prop := ∀ l, (s.line l).record.flow = false → (s.line l).xoff = false

/-! ### The lines of the services (R72) -/

/-- R72: no line is the primary or backup line of more than one enabled service. -/
def LinesIsolated (s : State) : Prop :=
  ∀ u v l, hasLine (s.service u) l = true → hasLine (s.service v) l = true → u = v

/-! ### The script store (R87) -/

/-- The records of the script store stand in rising order of their numbers, and no cue text is longer than
a LOAD_CUE body leaves it room (R151). -/
def StoreFormed (s : State) : Prop :=
  storeWf s.stories = true ∧ storeWf s.cues = true ∧ ∀ p ∈ s.cues, p.2.text.length ≤ 116

/-! ### Words of the statements -/

/-- The frame-start work of the frame has been taken (R1). -/
def WorkDone (s : State) : Prop := s.due = []

/-- No reaction is due: nothing is left of an event (log 4). -/
def Settled (s : State) : Prop := react s = none

/-- The device takes a control packet of the present frame: it is LOCKED and not held in reset, and the
frame-start work has been taken. -/
structure Ready (s : State) : Prop where
  awake : s.resetLow = false
  locked : s.ref = .locked
  done : WorkDone s

/-- R12: a control packet as its bytes stand in the frame. -/
def packetBytes (kind : Byte) (p : Request) : List Byte :=
  [0x62#8, p.addr, p.tag, kind, p.len] ++ p.body

/-- R12, R13: the packet goes out in the outgoing frame unchanged. -/
def passed (packet : List Byte) (s : State) : State := { s with out := s.out ++ [packet] }

/-- R12: the packet reaches CI, which carries it out on t: by the device's own address, or by address 15,
which also forwards it. -/
def Arrives (kind : Byte) (p : Request) (s t : State) : Prop :=
  p.addr.toNat = s.device.address ∧ t = s ∨
    p.addr = 15#8 ∧ s.device.address ≠ 15 ∧ t = passed (packetBytes kind p) s

/-- R12: the packet is addressed to another device. -/
def ForOthers (p : Request) (s : State) : Prop := p.addr.toNat ≠ s.device.address ∧ p.addr ≠ 15#8

/-- R151: the header announces these bytes of body, and they stand in the packet. -/
def HasBody (p : Request) (body : List Byte) : Prop :=
  p.len.toNat = body.length ∧ body <+: p.body

/-- R151, R155: the request of a kind has been counted, and its reply has joined the report queue. -/
def replied (kind : Byte) (p : Request) (code : ReplyCode) (body : List Byte) (s : State) : State :=
  { s with ci := joinReply (.reply p.tag kind code body) (countRequest code s.ci) }

/-- R12: the requests, with their kinds. -/
def requests : List (Byte × (Request → Instr)) :=
  [(1#8, .setDevice), (2#8, .loadLine), (3#8, .loadService), (4#8, .loadSlotmap), (5#8, .loadStory),
    (6#8, .loadCue), (7#8, .loadGpi), (8#8, .arm), (9#8, .advance), (10#8, .cancel), (11#8, .select),
    (12#8, .clear), (13#8, .restart), (14#8, .softReset), (15#8, .query)]

/-- R151: the requests with the one body length that the table of section 11.1 gives each. -/
def fixedLengths : List (Byte × (Request → Instr) × Nat) :=
  [(1#8, .setDevice, 4), (2#8, .loadLine, 15), (3#8, .loadService, 23), (4#8, .loadSlotmap, 12),
    (5#8, .loadStory, 11), (7#8, .loadGpi, 5), (8#8, .arm, 2), (9#8, .advance, 1), (10#8, .cancel, 1),
    (11#8, .select, 2), (12#8, .clear, 1), (13#8, .restart, 1), (14#8, .softReset, 0), (15#8, .query, 4)]

end Sys2Proof.Machine

namespace Sys2Proof

/-- The commands that carry an ancillary packet. -/
def Instr.carriesPacket : Instr → Bool
  | .captionPacketRemoved _ => true
  | .controlPacketForwarded _ => true
  | .unknownRequest .. => true
  | .setDevice _ => true
  | .loadLine _ => true
  | .loadService _ => true
  | .loadSlotmap _ => true
  | .loadStory _ => true
  | .loadCue _ => true
  | .loadGpi _ => true
  | .arm _ => true
  | .advance _ => true
  | .cancel _ => true
  | .select _ => true
  | .clear _ => true
  | .restart _ => true
  | .softReset _ => true
  | .query _ => true
  | _ => false

/-- The piece of work that a command names. -/
def Instr.work : Instr → Option Work
  | .gpiEdgeAccepted i => some (.edge i)
  | .onsetExpiry v => some (.onsetExpiry v)
  | .flushDelayExpiry l => some (.flush l)
  | .standbyAgeOut v => some (.ageOut v)
  | .stenographerHoldExpiry v => some (.holdEnd v)
  | .silenceLimitReached v => some (.silence v)
  | .timedIssue v => some (.timed v)
  | .heldWordRetry l => some (.retry l)
  | .rollUpRelease v => some (.serve v)
  | .blockHoldExpiry v => some (.blockHold v)
  | .blockAppend v => some (.append v)
  | .staleClear v => some (.stale v)
  | .dmaxClear v => some (.dmax v)
  | .drainComplete v => some (.drain v)
  | _ => none

/-- The commands by which the device is reset, or held in reset (R15). -/
def Instr.isReset : Instr → Bool
  | .powerOnReset => true
  | .resetPinAssert => true
  | .resetPinRelease => true
  | _ => false

/-- The commands that enter SEEKING (R8). -/
def Instr.resetsPort : Instr → Bool
  | .powerOnReset => true
  | .resetPinRelease => true
  | _ => false

/-- The commands that begin a frame or reset the device: only they change PFN (R2). -/
def Instr.movesFrame : Instr → Bool
  | .powerOnReset => true
  | .resetPinRelease => true
  | .frameStart _ => true
  | .lossThresholdExpiry .. => true
  | .frameTimerExpiry .. => true
  | _ => false

end Sys2Proof
end

