-- ==== Sys2Proof/Certificates/Slice0/Obligations.lean ====
section
/-! DEFINITION. The statements for the provers. -/

section
open Sys2Proof Sys2Proof.Machine

/-! ### The shape of a step -/

/-- A step runs the command at the front of the queue on the state with the queue's rest. With no command
waiting, the first piece of work due is taken with its reactions, unless the RESET pin is low; with none
due the block idles: the model's choice, log 1. -/
def Obligations.StepRunsFrontCommand : Prop :=
  ∀ s : State,
    (∀ (c : Instr) (rest : List Instr), s.pending = c :: rest →
      step s = exec c { s with pending := rest }) ∧
    (s.pending = [] → s.due = [] → step s = .next s) ∧
    (s.pending = [] → s.resetLow = true → step s = .next s) ∧
    (∀ w rest, s.pending = [] → s.due = w :: rest → s.resetLow = false →
      step s = .next (settle (perform w { s with due := rest })))

/-- Every command answers a next state, and leaves the commands that wait as they are. -/
def Obligations.EveryCommandCompletes : Prop :=
  ∀ (c : Instr) (s : State), ∃ t, exec c s = .next t ∧ t.pending = s.pending

/-- What the present state cannot take leaves it as it was: anything but a reset while the RESET pin is
low, a packet or a carriage point outside LOCKED, an expiry outside its reference state, and a piece
of work that is not due. The model's choice of what such a command does: log 7. -/
def Obligations.EventsNotTaken : Prop :=
  (∀ (c : Instr) (s : State), s.resetLow = true → c.isReset = false → exec c s = .next s) ∧
  (∀ (c : Instr) (s : State), s.ref ≠ .locked → c.carriesPacket = true → exec c s = .next s) ∧
  (∀ (s : State) (d : BitVec 4), s.ref ≠ .locked → exec (.carriagePoint d) s = .next s) ∧
  (∀ (s : State) (lv : BitVec 8) (f1 f2 f3 : InternalFrame), s.ref ≠ .locked →
    exec (.lossThresholdExpiry lv f1 f2 f3) s = .next s) ∧
  (∀ (s : State) (lv : BitVec 8) (f : InternalFrame), s.ref ≠ .freewheel →
    exec (.frameTimerExpiry lv f) s = .next s) ∧
  (∀ (s : State), s.due = [] →
    (∀ l, exec (.flushDelayExpiry l) s = .next s ∧ exec (.heldWordRetry l) s = .next s) ∧
    (∀ i, exec (.gpiEdgeAccepted i) s = .next s) ∧
    (∀ v, ∀ c ∈ [Instr.onsetExpiry v, .standbyAgeOut v, .stenographerHoldExpiry v,
        .silenceLimitReached v, .timedIssue v, .rollUpRelease v, .blockHoldExpiry v, .blockAppend v,
        .staleClear v, .dmaxClear v, .drainComplete v], exec c s = .next s))

/-! ### Laws that every step keeps -/

/-- Every queue, FIFO and list keeps within its capacity, and every word within 1 to 32 glyphs. -/
def Obligations.CapacitiesKept : Prop :=
  ∀ s t : State, WithinCapacity s → step s = .next t → WithinCapacity t

/-- The settings keep in their ranges and the estimates in 0 to 4088; the script store keeps its form; no
line comes to serve two enabled services. -/
def Obligations.TablesKeepTheirLaws : Prop :=
  ∀ s t : State, InRange s ∧ StoreFormed s ∧ LinesIsolated s → step s = .next t →
    InRange t ∧ StoreFormed t ∧ LinesIsolated t

/-- Every word assembler keeps its form. -/
def Obligations.AssemblersKeepTheirForm : Prop :=
  ∀ s t : State, AssemblersFormed s → step s = .next t → AssemblersFormed t

/-- Every story runner keeps its form: a RUNNING one always serves a service in SCRIPT mode. -/
def Obligations.RunnersKeepTheirForm : Prop :=
  ∀ s t : State, RunnersFormed s → step s = .next t → RunnersFormed t

/-- An idle transmitter has sent what its mark calls for, and with flow control off the mark is clear. -/
def Obligations.FlowControlKept : Prop :=
  ∀ s t : State, TransmittersFollow s ∧ MarksFollowFlow s → step s = .next t →
    TransmittersFollow t ∧ MarksFollowFlow t

/-- The state after reset meets every one of these laws. -/
def Obligations.LawsHoldAtReset : Prop :=
  WithinCapacity State.reset ∧ InRange State.reset ∧ StoreFormed State.reset ∧
    LinesIsolated State.reset ∧ AssemblersFormed State.reset ∧ RunnersFormed State.reset ∧
    TransmittersFollow State.reset ∧ MarksFollowFlow State.reset

/-- Only a reset, a frame start or an internal frame changes PFN, the reference state or the frame timer,
and only a power-on reset or the release of the RESET pin leads back to SEEKING. -/
def Obligations.FramePortMovesOnly : Prop :=
  ∀ (c : Instr) (s t : State), exec c s = .next t →
    (c.movesFrame = false → t.pfn = s.pfn ∧ t.ref = s.ref ∧ t.timer = s.timer) ∧
    (c.resetsPort = false → s.ref ≠ .seeking → t.ref ≠ .seeking)

/-- Only a packet or a reset changes the device record, a line, service or GPI record, or the script
store; only a packet, a carriage point or a reset the slot maps. -/
def Obligations.TablesChangeByPacketsOnly : Prop :=
  ∀ (c : Instr) (s t : State), exec c s = .next t → c.isReset = false → c.carriesPacket = false →
    t.device = s.device ∧ t.stories = s.stories ∧ t.cues = s.cues ∧
    (∀ l, (t.line l).record = (s.line l).record) ∧
    (∀ v, (t.service v).record = (s.service v).record) ∧
    (∀ i, (t.input i).record = (s.input i).record) ∧
    (t.slotMap = s.slotMap ∧ t.pendingMap = s.pendingMap ∨
      t.slotMap = s.pendingMap.getD s.slotMap ∧ t.pendingMap = none)

/-! ### Resets -/

/-- Power-on reset and the release of the RESET pin, by the values the spec gives for every line, input and
service and for the rest of the device. The fall of the pin abandons the frame: what is being received or
sent is cut short, and the rest stands until the release. What the spec gives no value for is the model's
choice: the agenda `due` (log 1), the counter `draws` (log 3), the packets `out` (log 5), the level of the
pin, the count of internal frames and the waiting commands (log 6), and the receivers (log 15). -/
def Obligations.ResetsTaken : Prop :=
  let line : Line :=
    { record := { enabled := false, rate := .r9600, dataBits := .eight, parity := .none, flow := false,
                  substitute := 0x23, flushDelay := 12, l0 := 100, lmin := 12, lmax := 250,
                  adaptive := true }
      receiver := .watching, fifo := [], xoff := false, lastSent := .xon, sending := none
      overrunOpen := false, commandPending := false, stamp := 0
      received := 0, parityErrors := 0, framingErrors := 0, overruns := 0, discards := 0
      asm := { glyphs := [], first := none, retracted := none, carriedSpeaker := false
               carriedBreak := false, carriedCont := false, speakerPending := false
               breakPending := false, contPending := false, held := none, clearPending := none
               retryOwed := false, completed := 0, unrouted := 0, retractions := 0, late := 0 }
      lat := { lest := 0, lastSample := none, lastCompletion := none, firstWord := false, samples := 0
               unpaired := 0 } }
  let input : Input :=
    { record := { function := .none, target := 0, activeHigh := false, nr := 2 }
      accepted := none, run := 0, asserts := 0, deasserts := 0 }
  let service : Service :=
    { record := { enabled := false, primary := none, backup := none, display := .rollUp, width := 32
                  rows := 2, readingRate := 15, dmin := 38, dmax := 150, holdLimit := 50, tclear := 375
                  fs := 250, fh := 3000, sofs := 0, priority := 3, gap := 25 }
      sel := { mode := .live, choice := .primary, hold := none, muted := false, silentNotified := false
               awaitsFrame := false, standby := [], failovers := 0, standbyDropped := 0
               standbyExpired := 0, mergeLost := 0, holds := 0, muteDiscards := 0 }
      onsets := { frames := [], admitted := 0, dropped := 0, expired := 0 }
      runner := { phase := .idle, story := none, pointer := 0, remaining := 0, lastCueT := none
                  nextBase := none, timingHeld := false, issued := 0, ignored := 0, lost := 0
                  deferrals := 0 }
      sched := { queue := [], lastLeft := none, lastLateness := 0, maxLateness := 0, maxLag := 0
                 fullRefusals := 0, releases := 0, stalls := 0 }
      cb := { form := .none, fill := 0, newRow := false, lastRelease := none
              openBlock := { words := [], rows := [], closing := none, carry := none, expiring := false }
              cue := none, blocks := [], shown := none, timer := .idle
              blocksClosed := 0, holdExpiries := 0, slips := 0, timedClears := 0 }
      om := { fifo := [], unitsCarried := 0, bytesCarried := 0, round2Bytes := 0, splits := 0
              starved := 0 } }
  let device (low : Bool) (waiting : List Instr) : State :=
    { resetLow := low, pfn := 0, ref := .seeking, timer := .idle, internalFrames := 0
      device := { fps := .f25, delay := 0, address := 0 }
      lines := ⟨line, line, line, line⟩
      inputs := ⟨input, input, input, input, input, input, input, input⟩
      services := ⟨service, service, service, service⟩
      stories := [], cues := [], slotMap := Vector.replicate 12 none, pendingMap := none
      ci := { reports := [], droppedNotice := false, taken := 0, refused := 0, noticesDropped := 0
              repliesLost := 0 }
      out := [], due := [], draws := 0, pending := waiting }
  ∀ s : State,
    exec .powerOnReset s = .next (device s.resetLow s.pending) ∧
    exec .resetPinRelease s = .next (device false s.pending) ∧
    exec .resetPinAssert s = .next { s with
      resetLow := true, due := [], out := []
      lines := s.lines.map fun x => { x with receiver := .watching, sending := none } }

/-! ### Frame numbers and frame starts -/

/-- R3: a stored past frame number is held to 2^19 behind PFN, and one that trails by less is left; and
which frame numbers of a line, of a service and of the report queue are held. That the not-before frame of
a queued unit and the frame of a waiting notice are among them is the model's choice: log 17. -/
def Obligations.PastFramesHeld : Prop :=
  (∀ pfn x : Frame,
    (frameDiff x pfn ≤ 524288 → heldPast pfn x = x) ∧
    (524288 < frameDiff x pfn → heldPast pfn x + 524288#32 = pfn) ∧
    frameDiff (heldPast pfn x) pfn ≤ 524288) ∧
  (∀ pfn : Frame,
    let h := heldPast pfn
    let word (w : WordRecord) : WordRecord := { w with arrival := h w.arrival, floor := w.floor.map h }
    (∀ x : Line, heldLine pfn x =
      { x with
        stamp := h x.stamp
        asm := { x.asm with
          first := x.asm.first.map h
          retracted := x.asm.retracted.map fun r => { r with arrival := h r.arrival, floor := h r.floor }
          held := x.asm.held.map fun k =>
            { k with item := match k.item with
              | .word w => .word (word w)
              | .marker a => .marker (h a) }
          clearPending := x.asm.clearPending.map h }
        lat := { x.lat with lastCompletion := x.lat.lastCompletion.map h } }) ∧
    (∀ x : Service, heldService pfn x =
      { x with
        sel := { x.sel with hold := x.sel.hold.map h, standby := x.sel.standby.map word }
        onsets := { x.onsets with frames := x.onsets.frames.map h }
        runner := { x.runner with
          lastCueT := x.runner.lastCueT.map h, nextBase := x.runner.nextBase.map h }
        sched := { x.sched with
          queue := x.sched.queue.map fun e =>
            { body := match e.body with
                | .word w => .word (word w)
                | .clear l a => .clear l (h a)
                | .cue k i text a => .cue k i text (h a)
              target := h e.target }
          lastLeft := x.sched.lastLeft.map h }
        cb := { x.cb with
          lastRelease := x.cb.lastRelease.map h
          openBlock := { x.cb.openBlock with
            words := x.cb.openBlock.words.map fun p =>
              { p with word := word p.word, target := h p.target }
            carry := x.cb.openBlock.carry.map fun c =>
              { c with word := word c.word, target := h c.target } }
          cue := x.cb.cue.map fun c => { c with target := h c.target }
          blocks := x.cb.blocks.map fun b => match b with
            | .text y => .text { y with tFirst := h y.tFirst, closed := h y.closed
                                        showFrame := h y.showFrame, trailing := y.trailing.map h }
            | .clearOnly f t c => .clearOnly (h f) (h t) (h c)
          shown := x.cb.shown.map fun p => (h p.1, p.2)
          timer := match x.cb.timer with
            | .running f => .running (h f)
            | .waiting => .waiting
            | .idle => .idle }
        om := { x.om with fifo := x.om.fifo.map fun u => { u with notBefore := u.notBefore.map h } } }) ∧
    (∀ c : Control, heldControl pfn c = { c with reports := c.reports.map (heldReport pfn) }) ∧
    (∀ r : Report, heldReport pfn r = match r with
      | .notice (.failover v a b n m k) => .notice (.failover v a b (h n) m k)
      | .notice (.storyEnd v k act n failed) => .notice (.storyEnd v k act (h n) failed)
      | .notice (.storyDrained v k n) => .notice (.storyDrained v k (h n))
      | .notice (.referenceLost n) => .notice (.referenceLost (h n))
      | .notice (.referenceRestored n k) => .notice (.referenceRestored (h n) k)
      | other => other))

/-- FRAME_START in each reference state: PFN, the reference state, the timer, the notice, the samples, the
past frame numbers held (`PastFramesHeld` says which; log 17), the silence check free to run again after a
return to LIVE, and everything else as it was. The agenda of work that falls due is the model's (log 1),
and so are the record of outgoing packets (log 5) and the place of REFERENCE_RESTORED before every notice of
that work (log 21). -/
def Obligations.FrameStartTaken : Prop :=
  ∀ (levels : BitVec 8) (s : State), s.resetLow = false → WorkDone s →
    ∃ t, exec (.frameStart levels) s = .next t ∧
      t.pfn = (if s.ref = .seeking then 1#32 else s.pfn + 1) ∧ t.ref = .locked ∧
      t.timer = .running 3 s.device.fps ∧ t.due = frameStartWork ∧ t.out = [] ∧
      (∀ i, t.input i = sample (levels.getLsbD i.val) (s.input i)) ∧
      (∀ l, t.line l = heldLine t.pfn (s.line l)) ∧
      (∀ v, t.service v = heldService t.pfn
        { s.service v with sel := { (s.service v).sel with awaitsFrame := false } }) ∧
      t.ci = (if s.ref = .freewheel then
          joinNotice (.referenceRestored (s.pfn + 1) s.internalFrames) (heldControl t.pfn s.ci)
        else heldControl t.pfn s.ci) ∧
      t = { s with pfn := t.pfn, ref := t.ref, timer := t.timer, due := t.due, out := t.out,
                   inputs := t.inputs, lines := t.lines, services := t.services, ci := t.ci }

/-- FRAME_TIMER_EXPIRY in FREEWHEEL takes one whole internal frame, which is spelled out: the frame start as
a real one delivers it (`FrameStartTaken`), the inputs sampled, the past frame numbers held
(`PastFramesHeld`; log 17) and the work of the frame due; the pieces that the operand lists, in its order,
and then the rest (`WorkPrecedesPackets`); the drain checks that the operand puts first; the assembly
(`PayloadIsFull`), by which units leave the FIFOs and whose packet is discarded; the append of each builder
and the drain checks left. Every report stays in its queue. The order in which the frame-start work meets,
and which drain checks come before the assembly, is the command's operand (log 2); that those drain checks
and the appends go lowest service first, and that the drain checks left come after the appends, is log 18;
that no work stays due and no packet goes out is said of the model's own records (logs 1 and 5). -/
def Obligations.InternalFrameTaken : Prop :=
  ∀ (levels : BitVec 8) (f : InternalFrame) (s : State),
    (∃ b : State,
      b.pfn = s.pfn + 1 ∧ b.internalFrames = s.internalFrames + 1 ∧ b.due = frameStartWork ∧
      b.out = [] ∧
      (∀ i, b.input i = sample (levels.getLsbD i.val) (s.input i)) ∧
      (∀ l, b.line l = heldLine b.pfn (s.line l)) ∧
      (∀ v, b.service v = heldService b.pfn
        { s.service v with sel := { (s.service v).sel with awaitsFrame := false } }) ∧
      b.ci = heldControl b.pfn s.ci ∧
      b = { s with pfn := b.pfn, internalFrames := b.internalFrames, due := b.due, out := b.out,
                   inputs := b.inputs, lines := b.lines, services := b.services, ci := b.ci } ∧
      let worked := finishWork (f.order.foldl (fun u w => runWork w u) b)
      let checked := fours.foldl
        (fun u v => if f.drainFirst.getLsbD v.val then drainCheck v u else u) worked
      let appended := fours.foldl (fun u v => settle (attemptAppend v u)) (assemble checked).state
      internalFrame levels f s = finishWork
        { appended with
          due := appended.due ++ (fours.filter fun v => !f.drainFirst.getLsbD v.val).map Work.drain }) ∧
    (s.resetLow = false → s.ref = .freewheel → WorkDone s →
      ∃ t, exec (.frameTimerExpiry levels f) s = .next t ∧
        t = { internalFrame levels f s with timer := .running 1 s.device.fps } ∧
        t.pfn = s.pfn + 1 ∧ t.ref = .freewheel ∧ t.internalFrames = s.internalFrames + 1 ∧
        t.due = [] ∧ t.out = [] ∧ t.slotMap = s.pendingMap.getD s.slotMap ∧ t.pendingMap = none ∧
        s.ci.reports.map (heldReport (s.pfn + 1)) <+: t.ci.reports ∧
        t.device = s.device ∧ t.stories = s.stories ∧ t.cues = s.cues)

/-- LOSS_THRESHOLD_EXPIRY in LOCKED: the notice, FREEWHEEL, three whole internal frames at once, and the
timer restarted for one period. That the three frames take one set of input levels, and the orders inside
them from operands, is the model's choice (log 2, unsafe for inputs that change between them); the work due
and the outgoing packets are the model's own records (logs 1 and 5); the frame numbers of waiting notices
are held (log 17); the order of the services inside an internal carriage point is log 18. -/
def Obligations.ReferenceLost : Prop :=
  ∀ (levels : BitVec 8) (f1 f2 f3 : InternalFrame) (s : State), s.resetLow = false →
    s.ref = .locked → WorkDone s →
    ∃ t, exec (.lossThresholdExpiry levels f1 f2 f3) s = .next t ∧
      (∃ u, u = internalFrame levels f3 (internalFrame levels f2 (internalFrame levels f1
          { s with ref := .freewheel, internalFrames := 0,
                   ci := joinNotice (.referenceLost s.pfn) s.ci })) ∧
        t = { u with timer := .running 1 s.device.fps }) ∧
      t.pfn = s.pfn + 3 ∧ t.ref = .freewheel ∧ t.internalFrames = 3 ∧ t.due = [] ∧ t.out = [] ∧
      (s.ci.reports.length < 16 →
        ((s.ci.reports.map (heldReport (s.pfn + 1))).map (heldReport (s.pfn + 2))).map
            (heldReport (s.pfn + 3)) ++ [.notice (.referenceLost s.pfn)] <+: t.ci.reports) ∧
      t.device = s.device ∧ t.stories = s.stories ∧ t.cues = s.cues

/-! ### Carriage -/

/-- CARRIAGE_POINT: the pending map takes effect, one caption packet goes out and the oldest report with
it; then each builder attempts its append, the lowest service first, and nothing else happens. What the
assembly places is said by `PayloadIsFull`; and the bytes of the report packet, for a reply and for each
notice, are spelled out (section 11.6). That the drain checks left to the carriage point go on the list of
work due is log 1, the record of outgoing packets log 5, that the report packet is taken before the
appends and the later drain checks, which queue behind it, log 18, and the sizes of a notice's contents
where the spec leaves them open log 10. -/
def Obligations.CarriagePointTaken : Prop :=
  (∀ (d : BitVec 4) (s : State), Ready s →
    let s0 := fours.foldl (fun x v => if d.getLsbD v.val then drainCheck v x else x) s
    let a := assemble s0
    let u : State :=
      { a.state with
        out := s.out ++
          (0x61#8 :: s.pfn.extractLsb' 0 8 :: BitVec.ofNat 8 a.used :: payload a) ::
            (match s0.ci.reports with
              | [] => []
              | r :: _ => [reportPacket s.device.address r])
        ci := { s0.ci with reports := s0.ci.reports.tail } }
    ∃ t, exec (.carriagePoint d) s = .next t ∧
      t = { fours.foldl (fun x v => settle (attemptAppend v x)) u with
              due := (fours.filter fun v => !d.getLsbD v.val).map Work.drain } ∧
      t.out = u.out ∧ s0.ci.reports.tail <+: t.ci.reports ∧
      t.slotMap = s.pendingMap.getD s.slotMap ∧ t.pendingMap = none ∧
      t.pfn = s.pfn ∧ t.ref = .locked ∧ t.timer = s.timer ∧ t.device = s.device ∧
      t.stories = s.stories ∧ t.cues = s.cues) ∧
  (∀ address : Nat,
    let one (n : Nat) : List Byte := [BitVec.ofNat 8 n]
    let two (n : Nat) : List Byte := [BitVec.ofNat 8 (n / 256), BitVec.ofNat 8 n]
    let four (x : BitVec 32) : List Byte :=
      [x.extractLsb' 24 8, x.extractLsb' 16 8, x.extractLsb' 8 8, x.extractLsb' 0 8]
    let sent (kind : Nat) (body : List Byte) : List Byte :=
      [0x63#8, BitVec.ofNat 8 address, 2#8, 0#8, BitVec.ofNat 8 kind, 0#8,
        BitVec.ofNat 8 body.length] ++ body
    let packet (n : Notice) : List Byte := reportPacket address (.notice n)
    (∀ (tag kind : Byte) (code : ReplyCode) (n : Nat) (body : List Byte),
      (code, n) ∈ [(ReplyCode.ok, 0), (.clamped, 1), (.badIndex, 2), (.badValue, 3), (.inUse, 4),
        (.busy, 5), (.incomplete, 6), (.notArmed, 7), (.notScript, 8), (.malformed, 9),
        (.unknown, 10)] →
      reportPacket address (.reply tag kind code body) =
        [0x63#8, BitVec.ofNat 8 address, 1#8, tag, kind, BitVec.ofNat 8 n,
          BitVec.ofNat 8 body.length] ++ body) ∧
    (∀ (v : ServiceIx) (o n : LineIx) (f : Frame) (merged lost : Nat),
      packet (.failover v o n f merged lost) =
        sent 1 (one v.val ++ one o.val ++ one n.val ++ four f ++ two merged ++ two lost)) ∧
    (∀ (v : ServiceIx) (l : LineIx) (silence : Frame),
      packet (.sourceSilent v l silence) = sent 2 (one v.val ++ one l.val ++ four silence)) ∧
    (∀ (v : ServiceIx) (k : Nat) (act : EndAction) (n : Nat) (f : Frame) (failed : Option Nat),
      (act, n) ∈ [(EndAction.live, 0), (.hold, 1), (.next, 2)] →
      packet (.storyEnd v k act f failed) =
        sent 3 (one v.val ++ one k ++ one n ++ four f ++ match failed with
          | none => one 0
          | some j => one 1 ++ one j)) ∧
    (∀ (v : ServiceIx) (k : Nat) (f : Frame),
      packet (.storyDrained v k f) = sent 4 (one v.val ++ one k ++ four f)) ∧
    (∀ (l : LineIx) (c : Count),
      packet (.lineOverrun l c) = sent 5 (one l.val ++ [c.extractLsb' 8 8, c.extractLsb' 0 8])) ∧
    (∀ f : Frame, packet (.referenceLost f) = sent 6 (four f)) ∧
    (∀ (f : Frame) (n : BitVec 32), packet (.referenceRestored f n) = sent 7 (four f ++ four n)))

/-- R148, R143: the payload has 48 bytes whatever the FIFOs and the map hold, the header's count is the
cost of the units in it, and the allowances come to at most 48. Section 10.3: the payload is the units in
order, each a header with the service in bits 7 and 6 and the kind in bits 5 to 3, a GLYPHS unit with its
count and glyphs behind it, and then filler. R142 to R148, R135: what the assembly places, in round 1 from
each service against its allowance and in round 2 in priority order against the bytes left
(`RoundTakesHeads` says what one service gives); and what it leaves of every FIFO, the carriage counts, the
slips and the Dmax timer, with everything else as it was. That a WAITING timer waits for the last SHOW of
the FIFO is log 17. -/
def Obligations.PayloadIsFull : Prop :=
  (∀ s : State, (payload (assemble s)).length = 48 ∧ (assemble s).used ≤ 48 ∧
    (assemble s).used = unitsCost ((assemble s).placed.map Prod.snd) ∧
    (∀ p ∈ (assemble s).placed, ∀ gs, p.2.kind = .glyphs gs → gs.length ≤ 46) ∧
    (fours.map (allowance s)).sum ≤ 48) ∧
  (∀ s : State,
    let code (k : UnitKind) : Nat := match k with
      | .glyphs _ => 1
      | .roll => 2
      | .newRow => 3
      | .showBlock => 4
      | .clear => 5
    let bytes := (assemble s).placed.flatMap fun p =>
      BitVec.ofNat 8 (64 * p.1.val + 8 * code p.2.kind) :: match p.2.kind with
        | .glyphs gs => BitVec.ofNat 8 gs.length :: gs
        | _ => []
    bytes.length = (assemble s).used ∧
      payload (assemble s) = bytes ++ List.replicate (48 - (assemble s).used) 0#8) ∧
  (∀ (s : State) (order : List ServiceIx) (second : ServiceIx → Taken),
    let level (v : ServiceIx) : Nat := (s.service v).record.priority
    let map := s.pendingMap.getD s.slotMap
    let share (v : ServiceIx) : Nat :=
      if (s.service v).record.enabled then 4 * map.toList.count (some v) else 0
    let first (v : ServiceIx) : Taken := takeUnits s.pfn (s.service v).om.fifo (share v)
    let shows (us : List OutUnit) : List Frame := us.filterMap fun u => match u.kind with
      | .showBlock => u.notBefore
      | _ => none
    let a := assemble s
    (∀ v, level v ≤ 3) → order.Perm [0, 1, 2, 3] →
    order.Pairwise (fun u v => level u < level v ∨ level u = level v ∧ u < v) →
    (∀ earlier v later, order = earlier ++ v :: later →
      second v = takeUnits s.pfn (first v).rest
        (48 - ([0, 1, 2, 3].map fun u => (first u).used).sum - (earlier.map fun u => (second u).used).sum)) →
    a.placed = ([0, 1, 2, 3].flatMap fun v => (first v).units.map fun u => (v, u)) ++
      order.flatMap (fun v => (second v).units.map fun u => (v, u)) ∧
    a.used = ([0, 1, 2, 3].map fun v => (first v).used + (second v).used).sum ∧
    (∀ v,
      let x := s.service v
      let gone := (first v).units ++ (second v).units
      let left := (second v).rest
      let starves := gone = [] ∧ ∃ u us, x.om.fifo = u :: us ∧ eligible s.pfn u = true
      ∃ starved : Count,
        (starves → starved = bump x.om.starved) ∧ (¬ starves → starved = x.om.starved) ∧
        a.state.service v =
          { x with
            om :=
              { fifo := left, starved := starved
                unitsCarried := bumpBy x.om.unitsCarried gone.length
                bytesCarried := bumpBy x.om.bytesCarried ((first v).used + (second v).used)
                round2Bytes := bumpBy x.om.round2Bytes (second v).used
                splits := bumpBy x.om.splits ((first v).split.toNat + (second v).split.toNat) }
            cb := { x.cb with
              slips := bumpBy x.cb.slips ((shows gone).countP fun f => strictlyBefore f s.pfn)
              timer := match (shows gone).getLast? with
                | some f =>
                  if x.cb.timer = .waiting ∧ shows left = [] then
                    .running (f + BitVec.ofNat 32 x.record.dmax)
                  else x.cb.timer
                | none => x.cb.timer } }) ∧
    a.state = { s with services := a.state.services, slotMap := map, pendingMap := none })

/-- R145, R147: one service served against a room: what it takes fits the room and is eligible; nothing is
lost or reordered; it stops at an empty FIFO, at a head that is not eligible, or at one that does not fit.
A GLYPHS unit is split when 3 bytes or more remain: the units before it leave whole, then a piece that
carries its first glyphs and nothing else, and the rest stays at the head with the unit's other fields, its
story tag among them, before the units behind it. -/
def Obligations.RoundTakesHeads : Prop :=
  ∀ (n : Frame) (fifo : List OutUnit) (room : Nat),
    let t := takeUnits n fifo room
    let glyphs (u : OutUnit) : List Byte := match u.kind with
      | .glyphs gs => gs
      | _ => []
    t.used = unitsCost t.units ∧ t.used ≤ room ∧ (∀ u ∈ t.units, eligible n u = true) ∧
    t.units.flatMap glyphs ++ t.rest.flatMap glyphs = fifo.flatMap glyphs ∧
    (t.split = false → t.units ++ t.rest = fifo) ∧
    (t.split = true →
      t.used = room ∧ t.used + unitsCost t.rest = unitsCost fifo + 2 ∧
      ∃ (before after : List OutUnit) (u : OutUnit) (gs : List Byte),
        let left := room - unitsCost before
        fifo = before ++ u :: after ∧ u.kind = .glyphs gs ∧ eligible n u = true ∧
        3 ≤ left ∧ left < gs.length + 2 ∧
        t.units = before ++
          [{ kind := .glyphs (gs.take (left - 2)), notBefore := none, story := none }] ∧
        t.rest = { u with kind := .glyphs (gs.drop (left - 2)) } :: after) ∧
    (t.rest = [] ∨ ∃ u us, t.rest = u :: us ∧
      (eligible n u = false ∨ room - t.used < unitCost u ∧
        (t.split = false → 3 ≤ room - t.used → ∀ gs, u.kind ≠ .glyphs gs)))

/-! ### Control packets -/

/-- A packet for another device passes unchanged; so do a packet of another class and a CONTROL packet
shorter than its header; a CAPTION packet is removed. -/
def Obligations.PacketsFiltered : Prop :=
  (∀ (k : Byte) (c : Request → Instr) (p : Request) (s : State), (k, c) ∈ requests → Ready s →
    ForOthers p s → exec (c p) s = .next (passed (packetBytes k p) s)) ∧
  (∀ (k : Byte) (p : Request) (s : State), Ready s → ForOthers p s →
    exec (.unknownRequest k p) s = .next (passed (packetBytes k p) s) ∧
    exec (.controlPacketForwarded (packetBytes k p)) s = .next (passed (packetBytes k p) s)) ∧
  (∀ (packet : List Byte) (s : State), Ready s → packet.head? = some 0x62#8 → packet.length < 5 →
    exec (.controlPacketForwarded packet) s = .next (passed packet s)) ∧
  (∀ (rest : List Byte) (s : State), exec (.captionPacketRemoved (0x61#8 :: rest)) s = .next s) ∧
  (∀ (b : Byte) (rest : List Byte) (s : State), Ready s → b ≠ 0x61#8 → b ≠ 0x62#8 →
    exec (.captionPacketRemoved (b :: rest)) s = .next (passed (b :: rest) s))

/-- The work of a frame: every piece but the drain checks is due once; a command that names a piece takes
it when it is due, with its reactions, where no other step of R76 stands beside it (`AgesChecked` and
`SilenceChecked` say what is taken then); and finishing the work takes the pieces due one by one, from the
head of the list. A request, whatever its kind, a carriage point, an expiry of the frame port and a frame
start after the first act on the state that this leaves. That the pieces still due are taken then, in the
listed order, is the model's choice: log 1. -/
def Obligations.WorkPrecedesPackets : Prop :=
  (∀ w : Work, frameStartWork.count w = match w with
    | .drain _ => 0
    | _ => 1) ∧
  (∀ (s : State) (c : Instr) (w : Work), s.resetLow = false → c.work = some w →
    exec c s = .next (runWork w s)) ∧
  (∀ (s : State) (w : Work),
    (∀ v, w = .holdEnd v → .ageOut v ∉ s.due ∧ .silence v ∉ s.due) →
    (∀ v, w = .silence v → .ageOut v ∉ s.due ∧ .holdEnd v ∉ s.due) →
    runWork w s =
      if w ∈ s.due then settle (perform w { s with due := s.due.erase w }) else s) ∧
  (∀ s : State,
    (s.due = [] → finishWork s = s) ∧
    (∀ w rest, s.due = w :: rest →
      finishWork s = finishWork (settle (perform w { s with due := rest })))) ∧
  (∀ s : State, s.resetLow = false →
    (finishWork s).due = [] ∧ (finishWork s).settings = { s.settings with due := [] } ∧
    (s.ref = .locked →
      (∀ (k : Byte) (c : Request → Instr) (p : Request), (k, c) ∈ requests →
        exec (c p) s = exec (c p) (finishWork s)) ∧
      (∀ (k : Byte) (p : Request),
        exec (.unknownRequest k p) s = exec (.unknownRequest k p) (finishWork s)) ∧
      (∀ rest : List Byte,
        exec (.controlPacketForwarded (0x62#8 :: rest)) s =
          exec (.controlPacketForwarded (0x62#8 :: rest)) (finishWork s)) ∧
      (∀ d, exec (.carriagePoint d) s = exec (.carriagePoint d) (finishWork s)) ∧
      (∀ lv f1 f2 f3, exec (.lossThresholdExpiry lv f1 f2 f3) s =
        exec (.lossThresholdExpiry lv f1 f2 f3) (finishWork s))) ∧
    (s.ref = .freewheel →
      ∀ lv f, exec (.frameTimerExpiry lv f) s = exec (.frameTimerExpiry lv f) (finishWork s)) ∧
    (s.ref ≠ .seeking → ∀ lv, exec (.frameStart lv) s = exec (.frameStart lv) (finishWork s)))

/-- A body length that does not fit the kind, or a body cut short, is answered MALFORMED; a kind that is
none of the fifteen is answered UNKNOWN; nothing but the report queue and the counts changes. -/
def Obligations.BadPacketsRefused : Prop :=
  ∀ (p : Request) (s t : State), Ready s →
    (∀ (k : Byte) (c : Request → Instr) (n : Nat), (k, c, n) ∈ fixedLengths → Arrives k p s t →
      p.len.toNat ≠ n ∨ p.body.length < p.len.toNat →
      exec (c p) s = .next (replied k p .malformed [] t)) ∧
    (Arrives 6#8 p s t → p.len.toNat < 5 ∨ 120 < p.len.toNat ∨ p.body.length < p.len.toNat →
      exec (.loadCue p) s = .next (replied 6#8 p .malformed [] t)) ∧
    (∀ k : Byte, Arrives k p s t → k = 0#8 ∨ 15 < k.toNat →
      exec (.unknownRequest k p) s = .next (replied k p .unknown [] t))

/-- SET_DEVICE, by the device's own address or by address 15. -/
def Obligations.SetDeviceTaken : Prop :=
  ∀ (p : Request) (s t : State) (f d1 d0 a : Byte), Ready s → Arrives 1#8 p s t →
    HasBody p [f, d1, d0, a] →
    (∀ rate fps, (rate, fps) ∈ [(24, FrameRate.f24), (25, .f25), (30, .f30), (50, .f50), (60, .f60)] →
      f.toNat = rate →
      exec (.setDevice p) s = .next (replied 1#8 p
        (if 600 < 256 * d1.toNat + d0.toNat ∨ 14 < a.toNat then .clamped else .ok) []
        { t with device := { fps := fps, delay := min 600 (256 * d1.toNat + d0.toNat),
                             address := min 14 a.toNat } })) ∧
    (f.toNat ∉ [24, 25, 30, 50, 60] →
      exec (.setDevice p) s = .next (replied 1#8 p .badValue [] t))

/-- LOAD_LINE with every field a value of its list: the record replaced with its numbers clamped, the
estimate set, the stamp of a line that it enables, and the XOFF mark released. A line above 3, or a field
that is no value of its list, is refused; log 11 for the yes and no fields, the adaptive byte beside R50
among them, and log 19 for a bad line before a bad field. -/
def Obligations.LoadLineTaken : Prop :=
  (∀ (p : Request) (s t : State) (l : LineIx) (en flow ad : Bool) (rate : LineRate) (bits : DataBits)
    (par : Parity) (sub fl a1 a0 b1 b0 c1 c0 : Byte), Ready s → Arrives 2#8 p s t →
    HasBody p [byte1 l.val, flagByte en, rateByte rate, dataBitsByte bits, parityByte par,
      flagByte flow, sub, fl, a1, a0, b1, b0, c1, c0, flagByte ad] →
    0x20 ≤ sub.toNat → sub.toNat ≤ 0x7E →
    let l0 := 256 * a1.toNat + a0.toNat
    let lmin := 256 * b1.toNat + b0.toNat
    let lmax := 256 * c1.toNat + c0.toNat
    let r : LineRecord :=
      { enabled := en, rate := rate, dataBits := bits, parity := par, flow := flow, substitute := sub,
        flushDelay := max 1 (min 250 fl.toNat), l0 := min 511 l0, lmin := min 511 lmin,
        lmax := max (min 511 lmin) (min 511 lmax), adaptive := ad }
    let old := s.line l
    let released := old.xoff = true ∧
      (old.record.flow = true ∧ flow = false ∨ old.record.enabled = true ∧ en = false)
    let x : Line :=
      { old with
        record := r
        lat := { old.lat with lest := 8 * min 511 l0 }
        stamp := if old.record.enabled = false ∧ en = true then s.pfn else old.stamp
        xoff := if released then false else old.xoff
        sending :=
          if released ∧ old.sending = none ∧ old.lastSent = .xoff then
            some { byte := .xon, rate := rate, dataBits := bits, parity := par }
          else old.sending }
    exec (.loadLine p) s = .next (replied 2#8 p
      (if fl.toNat = 0 ∨ 250 < fl.toNat ∨ 511 < l0 ∨ 511 < lmin ∨ 511 < lmax ∨ lmax < min 511 lmin then
        .clamped else .ok) [] (t.updLine l fun _ => x))) ∧
  (∀ (p : Request) (s t : State) (l en rate bits par flow sub fl a1 a0 b1 b0 c1 c0 ad : Byte), Ready s →
    Arrives 2#8 p s t →
    HasBody p [l, en, rate, bits, par, flow, sub, fl, a1, a0, b1, b0, c1, c0, ad] →
    (4 ≤ l.toNat → exec (.loadLine p) s = .next (replied 2#8 p .badIndex [] t)) ∧
    (l.toNat < 4 →
      1 < en.toNat ∨ 5 < rate.toNat ∨ bits.toNat < 7 ∨ 8 < bits.toNat ∨ 2 < par.toNat ∨
        1 < flow.toNat ∨ sub.toNat < 0x20 ∨ 0x7E < sub.toNat ∨ 1 < ad.toNat →
      exec (.loadLine p) s = .next (replied 2#8 p .badValue [] t)))

/-- How a LOAD_SERVICE body is read: which bodies are refused, and the record that the others carry, with
whether a number was clamped. That a flag byte above 1 is refused is the model's reading (log 11), and so is
that a bad service number is answered before a bad field (log 19). -/
def Obligations.ServiceRecordRead : Prop :=
  ∀ v en pri bak disp w rows r d1 d0 x1 x0 h1 h0 c1 c0 f1 f0 g1 g0 sofs pr gap : Byte,
    let body := [v, en, pri, bak, disp, w, rows, r, d1, d0, x1, x0, h1, h0, c1, c0, f1, f0, g1, g0, sofs,
      pr, gap]
    let line (b : Byte) : Option LineIx := if b = 0xFF#8 then none else some (Fin.ofNat 4 b.toNat)
    let two (hi lo : Byte) : Nat := 256 * hi.toNat + lo.toNat
    let off (n : Nat) : Nat := if n = 0 then 0 else max 50 (min 3000 n)
    (4 ≤ v.toNat → parseService body = .error .badIndex) ∧
    (v.toNat < 4 →
      1 < en.toNat ∨ 4 ≤ pri.toNat ∧ pri ≠ 0xFF#8 ∨ 4 ≤ bak.toNat ∧ bak ≠ 0xFF#8 ∨ 1 < disp.toNat ∨
        pri = bak ∧ pri ≠ 0xFF#8 →
      parseService body = .error .badValue) ∧
    (v.toNat < 4 → en.toNat ≤ 1 → (pri.toNat < 4 ∨ pri = 0xFF#8) → (bak.toNat < 4 ∨ bak = 0xFF#8) →
      disp.toNat ≤ 1 → (pri = 0xFF#8 ∨ pri ≠ bak) →
      ∃ clamped, parseService body = .ok (Fin.ofNat 4 v.toNat,
        { enabled := en = 1#8, primary := line pri, backup := line bak,
          display := if disp = 0#8 then .rollUp else .popOn,
          width := max 16 (min 42 w.toNat), rows := max 1 (min 3 rows.toNat),
          readingRate := max 8 (min 30 r.toNat), dmin := max 12 (min 250 (two d1 d0)),
          dmax := max (max 12 (min 250 (two d1 d0))) (min 1500 (two x1 x0)),
          holdLimit := max 12 (min 250 (two h1 h0)), tclear := off (two c1 c0), fs := off (two f1 f0),
          fh := min 6000 (two g1 g0), sofs := max (-64) (min 64 sofs.toInt), priority := min 3 pr.toNat,
          gap := max 5 (min 250 gap.toNat) }, clamped) ∧
        (clamped = false ↔
          16 ≤ w.toNat ∧ w.toNat ≤ 42 ∧ 1 ≤ rows.toNat ∧ rows.toNat ≤ 3 ∧ 8 ≤ r.toNat ∧ r.toNat ≤ 30 ∧
          12 ≤ two d1 d0 ∧ two d1 d0 ≤ 250 ∧ two d1 d0 ≤ two x1 x0 ∧ two x1 x0 ≤ 1500 ∧
          12 ≤ two h1 h0 ∧ two h1 h0 ≤ 250 ∧ (two c1 c0 = 0 ∨ 50 ≤ two c1 c0 ∧ two c1 c0 ≤ 3000) ∧
          (two f1 f0 = 0 ∨ 50 ≤ two f1 f0 ∧ two f1 f0 ≤ 3000) ∧ two g1 g0 ≤ 6000 ∧
          -64 ≤ sofs.toInt ∧ sofs.toInt ≤ 64 ∧ pr.toNat ≤ 3 ∧ 5 ≤ gap.toNat ∧ gap.toNat ≤ 250))

/-- LOAD_SERVICE on the record that its body carries, by the state of the named service. That the open block
closes under the new record and that the head is taken at once is the model's reading (log 13), and so is
that a line handed on by the restart is handed on after the disabling (log 4). That a bad body is answered
before a line in use is log 19. -/
def Obligations.LoadServiceTaken : Prop :=
  ∀ (p : Request) (s t : State) (body : List Byte), Ready s → Arrives 3#8 p s t → HasBody p body →
    body.length = 23 →
    (∀ c, parseService body = .error c → exec (.loadService p) s = .next (replied 3#8 p c [] t)) ∧
    (∀ v r clamped, parseService body = .ok (v, r, clamped) →
      let old := (s.service v).record
      let code : ReplyCode := if clamped then .clamped else .ok
      let taken := t.updService v fun x => { x with record := r }
      let inUse := ∃ u l, u ≠ v ∧ hasLine (s.service u) l = true ∧
        (r.primary = some l ∨ r.backup = some l)
      (old.enabled = false → r.enabled = true → inUse →
        exec (.loadService p) s = .next (replied 3#8 p .inUse [] t)) ∧
      (old.enabled = false → (r.enabled = true → ¬ inUse) →
        exec (.loadService p) s = .next (replied 3#8 p code [] taken)) ∧
      (old.enabled = true → r.enabled = true → r.primary = old.primary → r.backup = old.backup →
        exec (.loadService p) s = .next (replied 3#8 p code [] (settle
          (if old.display = .popOn ∧ r.display = .rollUp then closeOpen v .ordinary taken
           else taken)))) ∧
      (old.enabled = true → r.enabled = true → r.primary ≠ old.primary ∨ r.backup ≠ old.backup →
        exec (.loadService p) s = .next (replied 3#8 p .inUse [] t)) ∧
      (old.enabled = true → r.enabled = false →
        exec (.loadService p) s = .next (replied 3#8 p code []
          (settle ((restartService v t).updService v fun x => { x with record := r })))))

/-- LOAD_SLOTMAP: any twelve services and OPENs become the pending map; any other entry is refused. -/
def Obligations.LoadSlotmapTaken : Prop :=
  ∀ (p : Request) (s t : State), Ready s → Arrives 4#8 p s t →
    (∀ m : SlotMap, HasBody p (m.toList.map lineByte) →
      exec (.loadSlotmap p) s = .next (replied 4#8 p .ok [] { t with pendingMap := some m })) ∧
    (∀ body : List Byte, HasBody p body → body.length = 12 → (∃ b ∈ body, 4 ≤ b.toNat ∧ b ≠ 0xFF#8) →
      exec (.loadSlotmap p) s = .next (replied 4#8 p .badValue [] t))

/-- LOAD_STORY: the checks in their order, the clamp of the transfer count, and the record stored; log 11
for the end-notice byte. -/
def Obligations.LoadStoryTaken : Prop :=
  ∀ (p : Request) (s t : State) (k f1 f0 c n1 n0 ring adv act next note : Byte), Ready s →
    Arrives 5#8 p s t → HasBody p [k, f1, f0, c, n1, n0, ring, adv, act, next, note] →
    let first := 256 * f1.toNat + f0.toNat
    let n := 256 * n1.toNat + n0.toNat
    let n' := if ring = 0xFF#8 then c.toNat else max 1 n
    let story : Story :=
      { first := first, count := c.toNat, transfer := n'
        ring := if ring = 0xFF#8 then none else some ring.toNat
        advance := if adv = 0#8 then .triggered else .timed
        endAction := if act = 0#8 then .live else if act = 1#8 then .hold else .next
        next := if act = 2#8 then some next.toNat else none
        endNotice := note = 1#8 }
    let held := ∃ v, (s.service v).runner.phase ≠ .idle ∧ (s.service v).runner.story = some k.toNat
    let far := 511 < first ∨ 512 < first + c.toNat
    let bad := c.toNat = 0 ∨ 64 < c.toNat ∨ 1 < adv.toNat ∨ 2 < act.toNat ∨
      ring ≠ 0xFF#8 ∧ c.toNat ≤ ring.toNat ∨ act = 2#8 ∧ 63 < next.toNat ∨ 1 < note.toNat
    (63 < k.toNat → exec (.loadStory p) s = .next (replied 5#8 p .badIndex [] t)) ∧
    (k.toNat ≤ 63 → held → exec (.loadStory p) s = .next (replied 5#8 p .inUse [] t)) ∧
    (k.toNat ≤ 63 → ¬ held → far → exec (.loadStory p) s = .next (replied 5#8 p .badIndex [] t)) ∧
    (k.toNat ≤ 63 → ¬ held → ¬ far → bad →
      exec (.loadStory p) s = .next (replied 5#8 p .badValue [] t)) ∧
    (k.toNat ≤ 63 → ¬ held → ¬ far → ¬ bad →
      exec (.loadStory p) s = .next (replied 5#8 p (if n' = n then .ok else .clamped) []
        { t with stories := storePut k.toNat story t.stories }))

/-- LOAD_CUE: the checks, the clamp of the interval, and the record stored. Where the text and the interval
stand in the body is the model's reading (log 9), and that the checks are made in the order in which R89
names them is log 19. -/
def Obligations.LoadCueTaken : Prop :=
  ∀ (p : Request) (s t : State) (k1 k0 i1 i0 : Byte) (text : List Byte), Ready s →
    Arrives 6#8 p s t → HasBody p (k1 :: k0 :: text ++ [i1, i0]) → 1 ≤ text.length →
    text.length ≤ 116 →
    let k := 256 * k1.toNat + k0.toNat
    let i := 256 * i1.toNat + i0.toNat
    let glyph (b : Byte) : Bool := 0x20 ≤ b.toNat && b.toNat ≤ 0x7E || 0xA0 ≤ b.toNat
    let held := ∃ v j st, (s.service v).runner.phase ≠ .idle ∧
      (s.service v).runner.story = some j ∧ storeGet j s.stories = some st ∧ st.first ≤ k ∧
      k < st.first + st.count
    let count := text.countP glyph
    let bad := (∃ b ∈ text, glyph b = false ∧ b ≠ 0x0A#8) ∨ text.head? = some 0x0A#8 ∨
      text.getLast? = some 0x0A#8 ∨ ∃ a b, text = a ++ 0x0A#8 :: 0x0A#8 :: b
    (511 < k → exec (.loadCue p) s = .next (replied 6#8 p .badIndex [] t)) ∧
    (k ≤ 511 → held → exec (.loadCue p) s = .next (replied 6#8 p .inUse [] t)) ∧
    (k ≤ 511 → ¬ held → count = 0 ∨ 96 < count →
      exec (.loadCue p) s = .next (replied 6#8 p .malformed [] t)) ∧
    (k ≤ 511 → ¬ held → 1 ≤ count → count ≤ 96 → bad →
      exec (.loadCue p) s = .next (replied 6#8 p .badValue [] t)) ∧
    (k ≤ 511 → ¬ held → 1 ≤ count → count ≤ 96 → ¬ bad →
      exec (.loadCue p) s = .next (replied 6#8 p (if 1 ≤ i ∧ i ≤ 1500 then .ok else .clamped) []
        { t with cues := storePut k { text := text, interval := max 1 (min 1500 i) } t.cues }))

/-- R87: a record that is stored is read back, and every other record stays as it was. -/
def Obligations.ScriptStoreReads : Prop :=
  ∀ (α : Type) (k : Nat) (x : α) (m : List (Nat × α)),
    storeGet k (storePut k x m) = some x ∧
    (∀ j, j ≠ k → storeGet j (storePut k x m) = storeGet j m) ∧
    (storeWf m = true → storeWf (storePut k x m) = true)

/-- LOAD_GPI: the record replaced and the input set to baseline pending, or the request refused; log 11
for the active-level byte, and log 19 for an input above 7 whose other fields are bad too. -/
def Obligations.LoadGpiTaken : Prop :=
  ∀ (p : Request) (s t : State), Ready s → Arrives 7#8 p s t →
    (∀ (i : InputIx) (f : GpiFunction) (v : ServiceIx) (hi : Bool) (nr : Byte),
      HasBody p [byte1 i.val, functionByte f, byte1 v.val, flagByte hi, nr] →
      exec (.loadGpi p) s = .next (replied 7#8 p (if 7 < nr.toNat then .clamped else .ok) []
        (t.updInput i fun x =>
          { record := { function := f, target := v, activeHigh := hi, nr := min 7 nr.toNat }
            accepted := none, run := 0, asserts := x.asserts, deasserts := x.deasserts }))) ∧
    (∀ i f v hi nr : Byte, HasBody p [i, f, v, hi, nr] →
      (8 ≤ i.toNat → exec (.loadGpi p) s = .next (replied 7#8 p .badIndex [] t)) ∧
      (i.toNat < 8 → 5 < f.toNat ∨ 3 < v.toNat ∨ 1 < hi.toNat →
        exec (.loadGpi p) s = .next (replied 7#8 p .badValue [] t)))

/-- ARM: the checks in their order, and the runner armed on the story. -/
def Obligations.ArmTaken : Prop :=
  ∀ (p : Request) (s t : State) (b k : Byte), Ready s → Arrives 8#8 p s t → HasBody p [b, k] →
    (4 ≤ b.toNat ∨ 63 < k.toNat → exec (.arm p) s = .next (replied 8#8 p .badIndex [] t)) ∧
    (∀ v : ServiceIx, b = byte1 v.val → k.toNat ≤ 63 →
      let x := s.service v
      let complete := ∃ st, storeGet k.toNat s.stories = some st ∧
        ∀ j < st.count, (storeGet (st.first + j) s.cues).isSome
      let elsewhere := ∃ u, u ≠ v ∧ (s.service u).runner.phase ≠ .idle ∧
        (s.service u).runner.story = some k.toNat
      (x.record.enabled = false → exec (.arm p) s = .next (replied 8#8 p .badValue [] t)) ∧
      (x.record.enabled = true → x.runner.phase ≠ .idle →
        exec (.arm p) s = .next (replied 8#8 p .busy [] t)) ∧
      (x.record.enabled = true → x.runner.phase = .idle → ¬ complete →
        exec (.arm p) s = .next (replied 8#8 p .incomplete [] t)) ∧
      (x.record.enabled = true → x.runner.phase = .idle → complete → elsewhere →
        exec (.arm p) s = .next (replied 8#8 p .inUse [] t)) ∧
      (∀ st, x.record.enabled = true → x.runner.phase = .idle → complete → ¬ elsewhere →
        storeGet k.toNat s.stories = some st →
        exec (.arm p) s = .next (replied 8#8 p .ok [] (t.updRunner v fun r =>
          { r with phase := .armed, story := some k.toNat, pointer := 0, remaining := st.transfer,
                   lastCueT := none, nextBase := none, timingHeld := false }))))

/-- ADVANCE: refused by the runner's state, the mode and a full queue, in that order; otherwise one cue is
issued with the PFN as its arrival frame. That the BUSY answer counts a full refusal is the model's reading
of R104 beside R93: log 8. -/
def Obligations.AdvanceTaken : Prop :=
  ∀ (p : Request) (s t : State) (b : Byte), Ready s → Arrives 9#8 p s t → HasBody p [b] →
    (4 ≤ b.toNat → exec (.advance p) s = .next (replied 9#8 p .badIndex [] t)) ∧
    (∀ v : ServiceIx, b = byte1 v.val →
      let x := s.service v
      (x.runner.phase = .idle ∨ x.runner.phase = .draining →
        exec (.advance p) s = .next (replied 9#8 p .notArmed [] t)) ∧
      (x.runner.phase = .suspended ∨
          (x.runner.phase = .armed ∨ x.runner.phase = .running) ∧ x.sel.mode = .live →
        exec (.advance p) s = .next (replied 9#8 p .notScript [] t)) ∧
      (x.runner.phase = .armed ∨ x.runner.phase = .running → x.sel.mode = .script →
        64 ≤ x.sched.queue.length →
        exec (.advance p) s = .next (replied 9#8 p .busy [] (t.updSched v fun q =>
          { q with fullRefusals := bump q.fullRefusals }))) ∧
      (∀ u, x.runner.phase = .armed ∨ x.runner.phase = .running → x.sel.mode = .script →
        issueCue v s.pfn t = some u →
        exec (.advance p) s = .next (replied 9#8 p .ok [] (settle u))))

/-- What issuing a cue does (R93, R94, R96, R97, R98): the entry, the runner after it, and the end action
when it was the last, with everything else as it was. A NEXT story names a next story, as R88 has it. -/
def Obligations.CueIssued : Prop :=
  ∀ (v : ServiceIx) (a : Frame) (s : State) (k : Nat) (st : Story) (c : Cue),
    let r := (s.service v).runner
    r.story = some k → storeGet k s.stories = some st → storeGet (st.first + r.pointer) s.cues = some c →
    (s.service v).sched.queue.length < 64 →
    let body : EntryBody := .cue k (st.first + r.pointer) c.text a
    let tt := targetFrame s v body none
    let idle : Runner := { r with phase := .idle, story := none, pointer := 0, remaining := 0,
                                  lastCueT := none, nextBase := none, timingHeld := false,
                                  issued := bump r.issued }
    let noted := if st.endNotice then joinNotice (.storyEnd v k st.endAction s.pfn none) s.ci else s.ci
    ∃ u, issueCue v a s = some u ∧
      (u.service v).sched =
        { (s.service v).sched with
          queue := (s.service v).sched.queue ++ [{ body := body, target := tt }]
          lastLateness := figure (frameDiff (rawTarget s v body) tt)
          maxLateness := maxFigure (s.service v).sched.maxLateness
            (figure (frameDiff (rawTarget s v body) tt)) } ∧
      (2 ≤ r.remaining →
        (u.service v).runner =
          { r with
            phase := .running
            pointer := if r.pointer + 1 < st.count then r.pointer + 1 else st.ring.getD r.pointer
            remaining := r.remaining - 1, lastCueT := some tt
            nextBase := if st.advance = .timed then some (moved tt c.interval) else none
            timingHeld := false, issued := bump r.issued } ∧
        (u.service v).sel = (s.service v).sel ∧ u.ci = s.ci) ∧
      (r.remaining ≤ 1 →
        (st.endAction = .hold →
          (u.service v).runner = idle ∧ (u.service v).sel = (s.service v).sel ∧ u.ci = noted) ∧
        (st.endAction = .live →
          (u.service v).runner = idle ∧
          (u.service v).sel = (if (s.service v).sel.mode = .live then (s.service v).sel
            else { (s.service v).sel with mode := .live, awaitsFrame := true }) ∧
          u.ci = noted) ∧
        (∀ n, st.endAction = .next → st.next = some n →
          (u.service v).sel = (s.service v).sel ∧
          (∀ st', storeGet n s.stories = some st' →
            (∀ j < st'.count, (storeGet (st'.first + j) s.cues).isSome) →
            (∀ w, w ≠ v → (s.service w).runner.phase ≠ .idle → (s.service w).runner.story ≠ some n) →
            (u.service v).runner =
              { idle with phase := .armed, story := some n, remaining := st'.transfer } ∧
            u.ci = noted) ∧
          (storyComplete s n = false ∨ heldElsewhere s v n = true →
            (u.service v).runner = idle ∧
            u.ci = joinNotice (.storyEnd v k .next s.pfn (some n)) s.ci))) ∧
      (∀ w, w ≠ v → u.service w = s.service w) ∧
      (u.service v).record = (s.service v).record ∧ (u.service v).onsets = (s.service v).onsets ∧
      (u.service v).cb = (s.service v).cb ∧ (u.service v).om = (s.service v).om ∧
      u = { s with services := u.services, ci := u.ci }

/-- CANCEL by the runner's state; from RUNNING and SUSPENDED the story's cues and blocks go, a line whose
held item waits on a queue that a cue has left looks again, and the drain is checked once. -/
def Obligations.CancelTaken : Prop :=
  ∀ (p : Request) (s t : State) (b : Byte), Ready s → Arrives 10#8 p s t → HasBody p [b] →
    (4 ≤ b.toNat → exec (.cancel p) s = .next (replied 10#8 p .badIndex [] t)) ∧
    (∀ v : ServiceIx, b = byte1 v.val →
      let x := s.service v
      let idle : Runner := { x.runner with phase := .idle, story := none, pointer := 0, remaining := 0,
                                           lastCueT := none, nextBase := none, timingHeld := false }
      (x.runner.phase = .idle → exec (.cancel p) s = .next (replied 10#8 p .notArmed [] t)) ∧
      (x.runner.phase = .armed →
        exec (.cancel p) s = .next (replied 10#8 p .ok [] (t.updRunner v fun _ => idle))) ∧
      (x.runner.phase = .draining → exec (.cancel p) s = .next (replied 10#8 p .ok [] t)) ∧
      (∀ k, x.runner.phase = .running ∨ x.runner.phase = .suspended → x.runner.story = some k →
        let gone (e : Entry) : Bool := match e.body with
          | .cue j _ _ _ => j = k
          | _ => false
        let drained := ∀ u ∈ x.om.fifo, u.story ≠ some k
        ∃ u, exec (.cancel p) s = .next (replied 10#8 p .ok [] (settle u)) ∧
          (u.service v).sched.queue = x.sched.queue.filter (fun e => !gone e) ∧
          (u.service v).sched.lastLeft =
            (match (x.sched.queue.filter gone).getLast? with
              | some e => some e.target
              | none => x.sched.lastLeft) ∧
          (u.service v).cb =
            { x.cb with
              blocks := x.cb.blocks.filter fun blk => match blk with
                | .text y => y.story ≠ some k
                | .clearOnly .. => true
              cue := x.cb.cue.filter fun f => f.story ≠ k } ∧
          (u.service v).om = x.om ∧ (u.service v).sel = x.sel ∧ (u.service v).onsets = x.onsets ∧
          (∀ w, w ≠ v → u.service w = s.service w) ∧ u.settings = t.settings ∧
          (∀ l, u.line l =
            if x.sched.queue.any gone = true ∧ (s.line l).asm.held.map Held.on = some v then
              { s.line l with asm := { (s.line l).asm with retryOwed := true } }
            else s.line l) ∧
          (drained → (u.service v).runner = idle ∧ u.ci = joinNotice (.storyDrained v k s.pfn) s.ci) ∧
          (¬ drained →
            (u.service v).runner = { x.runner with phase := .draining, nextBase := none } ∧
            u.ci = s.ci)))

/-- SELECT of a mode, its refusals, and SELECT of a line: refused when none is named, nothing when it is
the live choice, else a switch with the standby words merged in LIVE mode and dropped in SCRIPT mode; with
the reactions that follow (log 4). A bad service number is answered before a bad selection: log 19. -/
def Obligations.SelectTaken : Prop :=
  ∀ (p : Request) (s t : State) (b w : Byte), Ready s → Arrives 11#8 p s t → HasBody p [b, w] →
    (4 ≤ b.toNat → exec (.select p) s = .next (replied 11#8 p .badIndex [] t)) ∧
    (∀ v : ServiceIx, b = byte1 v.val →
      let x := s.service v
      (x.record.enabled = false ∨ 3 < w.toNat →
        exec (.select p) s = .next (replied 11#8 p .badValue [] t)) ∧
      (x.record.enabled = true → w = 2#8 → x.sel.mode = .script →
        exec (.select p) s = .next (replied 11#8 p .ok [] (settle t))) ∧
      (x.record.enabled = true → w = 3#8 → x.sel.mode = .live →
        exec (.select p) s = .next (replied 11#8 p .ok [] (settle t))) ∧
      (x.record.enabled = true → w = 2#8 → x.sel.mode = .live →
        exec (.select p) s = .next (replied 11#8 p .ok [] (settle (t.updService v fun y =>
          { y with
            sel := { y.sel with mode := .script }
            runner := if y.runner.phase = .suspended then
                { y.runner with phase := .running, timingHeld := true } else y.runner })))) ∧
      (x.record.enabled = true → w = 3#8 → x.sel.mode = .script →
        exec (.select p) s = .next (replied 11#8 p .ok [] (settle (t.updService v fun y =>
          { y with
            sel := { y.sel with mode := .live, awaitsFrame := true }
            runner := if y.runner.phase = .running then
                { y.runner with phase := .suspended } else y.runner })))) ∧
      (∀ c, x.record.enabled = true → (w, c) ∈ [(0#8, Choice.primary), (1#8, .backup)] →
        let named := if c = .primary then x.record.primary else x.record.backup
        (named = none → exec (.select p) s = .next (replied 11#8 p .badValue [] t)) ∧
        (named ≠ none → x.sel.choice = c → exec (.select p) s = .next (replied 11#8 p .ok [] t)) ∧
        (named ≠ none → x.sel.choice ≠ c →
          let flushed := match attachedLine x with
            | some l => flushWord l t
            | none => t
          let turned := flushed.updSel v fun y =>
            { y with choice := c, hold := none, silentNotified := false }
          (x.sel.mode = .live →
            exec (.select p) s = .next (replied 11#8 p .ok [] (settle (mergeStandby v turned).1))) ∧
          (x.sel.mode = .script →
            exec (.select p) s = .next (replied 11#8 p .ok [] (settle (turned.updSel v fun y =>
              { y with standby := [],
                       standbyDropped := bumpBy y.standbyDropped y.standby.length })))))))

/-- R77 step 3: the standby words are offered head first, those that find room join as WORD entries with
their own records and the targets that the queue gives them in turn, the others are lost and counted, and
the hold is empty; the lateness figures aside, nothing else changes. That each lost word counts a full
refusal too is the model's reading: log 8. -/
def Obligations.StandbyMerged : Prop :=
  ∀ (v : ServiceIx) (s : State), (s.service v).sched.queue.length ≤ 64 →
    let x := s.service v
    let u := mergeStandby v s
    let q := (u.1.service v).sched
    let room := 64 - x.sched.queue.length
    let lost := x.sel.standby.length - room
    q.queue.map Entry.body =
      x.sched.queue.map Entry.body ++ (x.sel.standby.take room).map EntryBody.word ∧
    q.queue.take x.sched.queue.length = x.sched.queue ∧
    (∀ (before : List Entry) (e : Entry) (after : List Entry) (w : WordRecord),
      q.queue = before ++ e :: after → x.sched.queue.length ≤ before.length → e.body = .word w →
      e.target = targetFrame (s.updSched v fun y => { y with queue := before }) v (.word w) none) ∧
    u.2 = min room x.sel.standby.length ∧
    u.1 = s.updService v fun _ =>
      { x with
        sel := { x.sel with standby := [], mergeLost := bumpBy x.sel.mergeLost lost }
        sched := { x.sched with
          queue := q.queue, lastLateness := q.lastLateness, maxLateness := q.maxLateness
          fullRefusals := bumpBy x.sched.fullRefusals lost } }

/-- CLEAR: the FIFO holds one CLEAR unit, the block queue and the cue in formation go, the composition is
reset, and the open block stays; refused for a disabled service. -/
def Obligations.ClearTaken : Prop :=
  ∀ (p : Request) (s t : State) (b : Byte), Ready s → Arrives 12#8 p s t → HasBody p [b] →
    (4 ≤ b.toNat → exec (.clear p) s = .next (replied 12#8 p .badIndex [] t)) ∧
    (∀ v : ServiceIx, b = byte1 v.val →
      ((s.service v).record.enabled = false →
        exec (.clear p) s = .next (replied 12#8 p .badValue [] t)) ∧
      ((s.service v).record.enabled = true →
        exec (.clear p) s = .next (replied 12#8 p .ok [] (settle (t.updService v fun x =>
          { x with
            cb := { x.cb with form := .none, fill := 0, newRow := false, lastRelease := none, cue := none,
                              blocks := [], shown := none, timer := .idle }
            om := { x.om with fifo := [{ kind := .clear, notBefore := none, story := none }] } })))))

/-- RESTART: the service in its clean running state with its record and counts kept, the held words that
wait on its queue dropped with their pending markers and first-word marks, and the words retracted from it
no longer so; nothing for a disabled service, and nothing else changes. -/
def Obligations.RestartTaken : Prop :=
  ∀ (p : Request) (s t : State) (b : Byte), Ready s → Arrives 13#8 p s t → HasBody p [b] →
    (4 ≤ b.toNat → exec (.restart p) s = .next (replied 13#8 p .badIndex [] t)) ∧
    (∀ v : ServiceIx, b = byte1 v.val →
      ((s.service v).record.enabled = false →
        exec (.restart p) s = .next (replied 13#8 p .ok [] t)) ∧
      ((s.service v).record.enabled = true →
        ∃ u, exec (.restart p) s = .next (replied 13#8 p .ok [] (settle u)) ∧
          u.service v =
            { s.service v with
              sel := { (s.service v).sel with mode := .live, choice := .primary, hold := none,
                                              muted := false, silentNotified := false,
                                              awaitsFrame := false, standby := [] }
              onsets := { (s.service v).onsets with frames := [] }
              runner := { (s.service v).runner with phase := .idle, story := none, pointer := 0,
                                                    remaining := 0, lastCueT := none, nextBase := none,
                                                    timingHeld := false }
              sched := { (s.service v).sched with queue := [], lastLeft := none, lastLateness := 0,
                                                  maxLateness := 0, maxLag := 0 }
              cb := { (s.service v).cb with form := .none, fill := 0, newRow := false,
                                            lastRelease := none, openBlock := emptyOpenBlock, cue := none,
                                            blocks := [], shown := none, timer := .idle }
              om := { (s.service v).om with
                fifo := [{ kind := .clear, notBefore := none, story := none }] } } ∧
          (∀ w, w ≠ v → u.service w = s.service w) ∧
          (∀ l,
            let x := s.line l
            let waits := x.asm.held.map Held.on = some v
            let taken := x.asm.retracted.map Retracted.service = some v
            u.line l =
              { x with
                asm := { x.asm with
                  held := if waits then none else x.asm.held
                  clearPending := if waits then none else x.asm.clearPending
                  retryOwed := if waits then false else x.asm.retryOwed
                  retracted := if taken then none else x.asm.retracted }
                lat := { x.lat with firstWord := if waits then false else x.lat.firstWord } }) ∧
          u = { t with services := u.services, lines := u.lines }))

/-- SOFT_RESET: every line, input and service cleared with its tables kept, every FIFO left with one CLEAR
unit, and the reply alone in the report queue with all counts at 0. -/
def Obligations.SoftResetTaken : Prop :=
  ∀ (p : Request) (s t : State), Ready s → Arrives 14#8 p s t → p.len = 0#8 →
    ∃ u, exec (.softReset p) s = .next u ∧
      u.ci = { reports := [.reply p.tag 14#8 .ok []], droppedNotice := false, taken := 0, refused := 0,
               noticesDropped := 0, repliesLost := 0 } ∧
      (∀ l, u.line l =
        { s.line l with
          fifo := [], xoff := false, overrunOpen := false, commandPending := false, stamp := s.pfn
          received := 0, parityErrors := 0, framingErrors := 0, overruns := 0, discards := 0
          sending :=
            if (s.line l).sending = none ∧ (s.line l).lastSent = .xoff then
              some { byte := .xon, rate := (s.line l).record.rate, dataBits := (s.line l).record.dataBits,
                     parity := (s.line l).record.parity }
            else (s.line l).sending
          asm := resetAssembler
          lat := { lest := 8 * (s.line l).record.l0, lastSample := none, lastCompletion := none,
                   firstWord := false, samples := 0, unpaired := 0 } }) ∧
      (∀ i, u.input i = { record := (s.input i).record, accepted := none, run := 0, asserts := 0,
                          deasserts := 0 }) ∧
      (∀ v, u.service v =
        { resetService with
          record := (s.service v).record
          om := { resetCarriage with
            fifo := [{ kind := .clear, notBefore := none, story := none }] } }) ∧
      u = { t with lines := u.lines, inputs := u.inputs, services := u.services, ci := u.ci }

/-- QUERY: refused for an unknown target or part, and for an index above the target's range; otherwise the
reply carries the state read, and the figures cleared when read are cleared after it. Every body is spelled
out byte by byte, and in a state within its capacities none is longer than 240 bytes. The sizes, codes and
order of a reply's fields where the spec leaves them open are log 10, that a device query carries the counts
without itself is log 14, and that a bad target or part is answered before a bad index is log 19. -/
def Obligations.QueryTaken : Prop :=
  let one (n : Nat) : List Byte := [BitVec.ofNat 8 n]
  let two (n : Nat) : List Byte := [BitVec.ofNat 8 (n / 256), BitVec.ofNat 8 n]
  let four (x : BitVec 32) : List Byte :=
    [x.extractLsb' 24 8, x.extractLsb' 16 8, x.extractLsb' 8 8, x.extractLsb' 0 8]
  let count (c : Count) : List Byte := [c.extractLsb' 8 8, c.extractLsb' 0 8]
  let flag (b : Bool) : List Byte := [if b then 1#8 else 0#8]
  let name (l : Option (Fin 4)) : List Byte := match l with
    | none => [0xFF#8]
    | some l => one l.val
  let opt {α : Type} (f : α → List Byte) (o : Option α) : List Byte := match o with
    | none => [0#8]
    | some x => 1#8 :: f x
  let items {α : Type} (f : α → List Byte) (xs : List α) : List Byte := one xs.length ++ xs.flatMap f
  let place {α : Type} [DecidableEq α] (xs : List α) (x : α) : List Byte := one (xs.idxOf x)
  let map (m : SlotMap) : List Byte := m.toList.flatMap name
  let device (s : State) : List Byte :=
    one (match s.device.fps with
      | .f24 => 24 | .f25 => 25 | .f30 => 30 | .f50 => 50 | .f60 => 60) ++
    two s.device.delay ++ one s.device.address ++ four s.pfn ++
    place [RefState.seeking, .locked, .freewheel] s.ref ++
    ([0, 1, 2, 3, 4, 5, 6, 7].flatMap fun i =>
      let x := s.input i
      place [GpiFunction.none, .onset, .cue, .mode, .mute, .clear] x.record.function ++
        one x.record.target.val ++ flag x.record.activeHigh ++ one x.record.nr ++
        opt flag x.accepted ++ one x.run ++ count x.asserts ++ count x.deasserts) ++
    map s.slotMap ++ opt map s.pendingMap ++
    ([0, 1, 2, 3].flatMap fun v => one (if (s.service v).record.enabled then
      4 * s.slotMap.toList.count (some v) else 0)) ++
    flag s.ci.droppedNotice ++ count s.ci.taken ++ count s.ci.refused ++ count s.ci.noticesDropped ++
    count s.ci.repliesLost
  let line (x : Line) : List Byte :=
    let a := x.asm
    flag x.record.enabled ++
    place [LineRate.r1200, .r2400, .r4800, .r9600, .r19200, .r38400] x.record.rate ++
    one (if x.record.dataBits = .seven then 7 else 8) ++
    place [Parity.none, .odd, .even] x.record.parity ++ flag x.record.flow ++ [x.record.substitute] ++
    count x.received ++ count x.parityErrors ++ count x.framingErrors ++ count x.overruns ++
    count x.discards ++ one x.fifo.length ++ flag x.xoff ++
    one (if x.lastSent = .xon then 0x11 else 0x13) ++ flag x.overrunOpen ++ flag x.commandPending ++
    four x.stamp ++
    one a.glyphs.length ++ opt four a.first ++
    opt (fun r : Retracted => four r.arrival ++ four r.floor) a.retracted ++
    flag a.speakerPending ++ flag a.breakPending ++ flag a.contPending ++
    opt (fun h : Held => match h.item with
      | .word _ => one 0
      | .marker _ => one 1) a.held ++
    flag a.clearPending.isSome ++ one x.record.flushDelay ++ count a.completed ++ count a.unrouted ++
    count a.retractions ++ count a.late ++
    two x.record.l0 ++ two x.record.lmin ++ two x.record.lmax ++ flag x.record.adaptive ++
    two x.lat.lest ++ two ((x.lat.lest + 4) / 8) ++ opt two x.lat.lastSample ++
    opt four x.lat.lastCompletion ++ flag x.lat.firstWord ++ count x.lat.samples ++
    count x.lat.unpaired
  let selection (x : Service) : List Byte :=
    let r := x.record
    flag r.enabled ++ name r.primary ++ name r.backup ++ place [Display.rollUp, .popOn] r.display ++
    one r.width ++ one r.rows ++ one r.readingRate ++ two r.dmin ++ two r.dmax ++ two r.holdLimit ++
    two r.tclear ++ two r.fs ++ two r.fh ++ [BitVec.ofInt 8 r.sofs] ++ one r.priority ++ one r.gap ++
    place [Mode.live, .script] x.sel.mode ++ place [Choice.primary, .backup] x.sel.choice ++
    name (if x.sel.choice = .primary then r.primary else r.backup) ++ opt four x.sel.hold ++
    flag x.sel.muted ++ flag x.sel.silentNotified ++
    items (fun w : WordRecord => one w.glyphs.length ++ one w.line.val ++ four w.arrival)
      x.sel.standby ++
    count x.sel.failovers ++ count x.sel.standbyDropped ++ count x.sel.standbyExpired ++
    count x.sel.mergeLost ++ count x.sel.holds ++ count x.sel.muteDiscards ++
    items four x.onsets.frames ++ count x.onsets.admitted ++ count x.onsets.dropped ++
    count x.onsets.expired
  let kind (e : Entry) : List Byte := match e.body with
    | .word _ => one 0
    | .clear .. => one 1
    | .cue .. => one 2
  let source (e : Entry) : List Byte := match e.body with
    | .word w => one w.line.val
    | .clear l _ => one l.val
    | .cue k _ _ _ => one k
  let running (s : State) (v : ServiceIx) : List Byte :=
    let r := (s.service v).runner
    let q := (s.service v).sched
    place [Phase.idle, .armed, .running, .suspended, .draining] r.phase ++ opt one r.story ++
    one r.pointer ++
    opt two ((r.story.bind fun k => storeGet k s.stories).map fun st => st.first + r.pointer) ++
    two r.remaining ++ opt four r.lastCueT ++ opt four r.nextBase ++
    opt (fun base => four (base - BitVec.ofInt 32 (s.device.delay + (s.service v).record.sofs)))
      r.nextBase ++
    flag r.timingHeld ++ count r.issued ++ count r.ignored ++ count r.lost ++ count r.deferrals ++
    one q.queue.length ++ opt (fun e => kind e ++ source e ++ four e.target) q.queue.head? ++
    opt (fun e => kind e ++ four e.target) q.queue.getLast? ++ opt four q.lastLeft ++
    count q.lastLateness ++ count q.maxLateness ++ count q.maxLag ++ count q.fullRefusals ++
    count q.releases ++ count q.stalls
  let building (x : Service) : List Byte :=
    let b := x.cb
    let o := x.om
    place [Form.none, .rolling, .block] b.form ++ one b.fill ++ flag b.newRow ++ opt four b.lastRelease ++
    one b.openBlock.words.length ++ one b.openBlock.rows.length ++
    opt (fun p : Placed => four p.target) b.openBlock.words.head? ++
    flag b.openBlock.closing.isSome ++
    one ((b.openBlock.carry.map fun c => c.pieces.length).getD 0) ++
    opt (fun c : Formation => one c.story ++ two c.index ++ one (c.groups.map List.length).sum) b.cue ++
    one b.blocks.length ++
    opt (fun k : Block => match k with
      | .text y => one 0 ++ one 1 ++ four y.showFrame
      | .clearOnly .. => one 1 ++ one 0) b.blocks.head? ++
    opt (fun p : Frame × Nat => four p.1 ++ two p.2) b.shown ++
    (match b.timer with
      | .idle => one 0 ++ one 0
      | .waiting => one 1 ++ one 0
      | .running f => one 2 ++ one 1 ++ four f) ++
    count b.blocksClosed ++ count b.holdExpiries ++ count b.slips ++ count b.timedClears ++
    two (bytesHeld o) ++ two o.fifo.length ++
    opt (fun u : OutUnit => one (match u.kind with
        | .glyphs _ => 1 | .roll => 2 | .newRow => 3 | .showBlock => 4 | .clear => 5) ++
      opt four u.notBefore ++ opt one u.story) o.fifo.head? ++
    count o.unitsCarried ++ count o.bytesCarried ++ count o.round2Bytes ++ count o.splits ++
    count o.starved
  let story (s : State) (k : Nat) : List Byte :=
    opt (fun st : Story => two st.first ++ one st.count ++ two st.transfer ++ opt one st.ring ++
      place [Advance.triggered, .timed] st.advance ++ place [EndAction.live, .hold, .next] st.endAction ++
      opt one st.next ++ flag st.endNotice) (storeGet k s.stories) ++
    flag (storeGet k s.stories).isSome ++ flag (storyComplete s k) ++
    opt (fun v : ServiceIx => one v.val) ([0, 1, 2, 3].find? fun v =>
      (s.service v).runner.phase ≠ .idle && (s.service v).runner.story = some k)
  let cue (s : State) (k : Nat) : List Byte :=
    opt (fun c : Cue => one c.text.length ++ c.text ++ two c.interval) (storeGet k s.cues) ++
    flag (storeGet k s.cues).isSome
  (∀ s : State, WithinCapacity s → StoreFormed s →
    (device s).length ≤ 240 ∧ (∀ l, (line (s.line l)).length ≤ 240) ∧
    (∀ v, (selection (s.service v)).length ≤ 240 ∧ (running s v).length ≤ 240 ∧
      (building (s.service v)).length ≤ 240) ∧
    (∀ k, (story s k).length ≤ 240 ∧ (cue s k).length ≤ 240)) ∧
  (∀ (s : State) (k : Nat), storyComplete s k = true ↔ ∃ st, storeGet k s.stories = some st ∧
    ∀ j < st.count, (storeGet (st.first + j) s.cues).isSome) ∧
  (∀ (p : Request) (s t : State) (b i1 i0 part : Byte), Ready s → Arrives 15#8 p s t →
    HasBody p [b, i1, i0, part] →
    let ix := 256 * i1.toNat + i0.toNat
    (4 < b.toNat ∨ b ≠ 2#8 ∧ part ≠ 0#8 ∨ 2 < part.toNat →
      exec (.query p) s = .next (replied 15#8 p .badValue [] t)) ∧
    (∀ last : Nat, (b, last) ∈ [(1#8, 3), (2#8, 3), (3#8, 63), (4#8, 511)] →
      (part = 0#8 ∨ b = 2#8 ∧ part.toNat ≤ 2) → last < ix →
      exec (.query p) s = .next (replied 15#8 p .badIndex [] t)) ∧
    (b = 0#8 → part = 0#8 → exec (.query p) s = .next (replied 15#8 p .ok (device t)
      { t with ci := { t.ci with droppedNotice := false } })) ∧
    (∀ l : LineIx, b = 1#8 → part = 0#8 → ix = l.val →
      exec (.query p) s = .next (replied 15#8 p .ok (line (s.line l)) t)) ∧
    (∀ v : ServiceIx, b = 2#8 → ix = v.val →
      (part = 0#8 → exec (.query p) s = .next (replied 15#8 p .ok (selection (s.service v)) t)) ∧
      (part = 1#8 → exec (.query p) s = .next (replied 15#8 p .ok (running s v)
        (t.updSched v fun q => { q with maxLateness := 0, maxLag := 0 }))) ∧
      (part = 2#8 → exec (.query p) s = .next (replied 15#8 p .ok (building (s.service v)) t))) ∧
    (b = 3#8 → part = 0#8 → ix ≤ 63 →
      exec (.query p) s = .next (replied 15#8 p .ok (story s ix) t)) ∧
    (b = 4#8 → part = 0#8 → ix ≤ 511 →
      exec (.query p) s = .next (replied 15#8 p .ok (cue s ix) t)))

/-! ### The report queue, the estimate and the frames computed -/

/-- R155, R156: how a reply and a notice join the report queue. -/
def Obligations.ReportsJoin : Prop :=
  ∀ c : Control,
    (∀ r : Report,
      (c.reports.length < 16 → joinReply r c = { c with reports := c.reports ++ [r] }) ∧
      (∀ older n younger, 16 ≤ c.reports.length → c.reports = older ++ .notice n :: younger →
        (∀ x ∈ younger, isNotice x = false) →
        joinReply r c = { c with reports := older ++ younger ++ [r], droppedNotice := true,
                                 noticesDropped := bump c.noticesDropped }) ∧
      (16 ≤ c.reports.length → (∀ x ∈ c.reports, isNotice x = false) →
        joinReply r c = { c with repliesLost := bump c.repliesLost })) ∧
    (∀ n : Notice,
      (c.reports.length < 16 → joinNotice n c = { c with reports := c.reports ++ [.notice n] }) ∧
      (16 ≤ c.reports.length →
        joinNotice n c =
          { c with droppedNotice := true, noticesDropped := bump c.noticesDropped })) ∧
    (∀ k : Count, bump k = BitVec.ofNat 16 (min 65535 (k.toNat + 1)))

/-- R57: a sample moves the estimate one eighth of the way to it, at least one eighth of a frame and never
past it. -/
def Obligations.EstimateFollowsSamples : Prop :=
  ∀ lest s : Nat,
    let d : Int := 8 * s - lest
    let q := d.tdiv 8
    let step : Int := if q = 0 ∧ d ≠ 0 then d.sign else q
    (updateLest lest s : Int) = lest + step ∧
    (d ≠ 0 → step.sign = d.sign) ∧ step.natAbs ≤ d.natAbs ∧
    (lest = 8 * s → updateLest lest s = lest) ∧
    min lest (8 * s) ≤ updateLest lest s ∧ updateLest lest s ≤ max lest (8 * s) ∧
    (lest ≤ 4088 → s ≤ 511 → updateLest lest s ≤ 4088) ∧
    (d.natAbs < 8 → (fun x => updateLest x s)^[7] lest = 8 * s) ∧
    ((lest + 4) / 8 ≠ (updateLest lest s + 4) / 8 →
      ∃ h, h % 8 = 4 ∧ (lest < h ∧ h ≤ updateLest lest s ∨ updateLest lest s < h ∧ h ≤ lest))

/-- R106, R107, R109, R110: the raw target of each kind of entry, and the target frame as the latest of it
and of the floors, for frame numbers near PFN. R107: the targets of a queue never decrease from head to
tail: not by an entry that is offered, not by entries that leave, and not by the holding of past frames. -/
def Obligations.TargetIsLatest : Prop :=
  ∀ (s : State) (v : ServiceIx) (body : EntryBody) (floor : Option Frame),
    let near (f : Frame) : Prop := (frameDiff s.pfn f).natAbs ≤ 1048576
    let at_ (f : Frame) : Int := frameDiff s.pfn f
    let sum : Int := s.device.delay + (s.service v).record.sofs
    let raw := rawTarget s v body
    let target := targetFrame s v body floor
    let queue := (s.service v).sched.queue
    let rising (es : List Entry) : Prop := es.Pairwise fun d e => 0 ≤ frameDiff d.target e.target
    (∀ w, body = .word w →
      raw = w.arrival + BitVec.ofInt 32 (sum - (((s.line w.line).lat.lest + 4) / 8 : Nat))) ∧
    (∀ l a, body = .clear l a →
      raw = a + BitVec.ofInt 32 (sum - (((s.line l).lat.lest + 4) / 8 : Nat))) ∧
    (∀ k i x a, body = .cue k i x a → raw = a + BitVec.ofInt 32 sum) ∧
    (near raw →
      (∀ e, queue.getLast? = some e → near e.target) →
      (∀ f, (s.service v).sched.lastLeft = some f → near f) → (∀ f, floor = some f → near f) →
      let low := max (at_ raw) 1
      let mid := match queue.getLast?, (s.service v).sched.lastLeft with
        | some e, _ => max low (at_ e.target)
        | none, some f => max low (at_ f)
        | none, none => low
      let high := match floor with
        | some f => max mid (at_ f)
        | none => mid
      at_ target = high ∧ 0 ≤ frameDiff raw target ∧
        latenessOf s v body floor = at_ target - at_ raw) ∧
    (near raw → (∀ e ∈ queue, near e.target) →
      (∀ f, (s.service v).sched.lastLeft = some f → near f) → (∀ f, floor = some f → near f) →
      rising queue →
      rising ((offer v body floor s).2.service v).sched.queue ∧
      (∀ es, es.Sublist queue → rising es) ∧
      rising (queue.map fun e => { e with target := heldPast s.pfn e.target }))

/-- R132, R133: the duration and the show frame of a block that closes, for frame numbers near PFN. -/
def Obligations.BlockIsTimed : Prop :=
  ∀ (s : State) (v : ServiceIx) (rows : List Row) (first : Frame) (story : Option Nat)
    (trailing : Option Frame), 1 ≤ (s.service v).record.readingRate →
    let x := s.service v
    let b := closedText s v rows first story trailing
    let fps := match s.device.fps with
      | .f24 => 24 | .f25 => 25 | .f30 => 30 | .f50 => 50 | .f60 => 60
    let n := (rows.map List.length).sum
    let near (f : Frame) : Prop := (frameDiff s.pfn f).natAbs ≤ 1048576
    let at_ (f : Frame) : Int := frameDiff s.pfn f
    let low := max (at_ first) 1
    b.rows = rows ∧ b.tFirst = first ∧ b.closed = s.pfn ∧ b.story = story ∧ b.trailing = trailing ∧
    (∃ m, n * fps ≤ m * x.record.readingRate ∧
      (∀ j, n * fps ≤ j * x.record.readingRate → m ≤ j) ∧
      b.dur = min x.record.dmax (max x.record.dmin m)) ∧
    (∀ older y younger, x.cb.blocks = older ++ .text y :: younger →
      (∀ z ∈ younger, ∀ u, z ≠ .text u) →
      near first → near (moved y.showFrame y.dur) →
      at_ b.showFrame = max low (at_ (moved y.showFrame y.dur))) ∧
    ((∀ z ∈ x.cb.blocks, ∀ u, z ≠ .text u) →
      (∀ f d, x.cb.shown = some (f, d) → near first → near (moved f d) →
        at_ b.showFrame = max low (at_ (moved f d))) ∧
      (x.cb.shown = none → near first → at_ b.showFrame = low))

/-- R124, R125: a word composed in roll-up, on any row state: a row whose fill is above a W that a
LOAD_SERVICE has lowered among them (R137). -/
def Obligations.WordIsComposed : Prop :=
  ∀ (width : Nat) (w : WordRecord) (b : Builder), 1 ≤ width → 1 ≤ w.glyphs.length →
    let text := (if w.speaker then [0x3E#8, 0x3E#8, 0x20#8] else []) ++ w.glyphs.map KeyedGlyph.glyph
    let c := compose width w b
    let fill := if b.form = .rolling then b.fill else 0
    let turns := 0 < fill ∧ (w.speaker = true ∨ w.breakBefore = true ∨ b.newRow = true)
    let spaced := fill + 1 + text.length
    let lead : List UnitKind := if b.form = .rolling then [] else [.clear]
    c.newRow = w.breakAfter ∧ 1 ≤ c.fill ∧ c.fill ≤ width ∧
    (∀ gs, UnitKind.glyphs gs ∈ c.kinds → 1 ≤ gs.length ∧ gs.length ≤ width) ∧
    (fill = 0 → text.length ≤ width → c.kinds = lead ++ [.glyphs text] ∧ c.fill = text.length) ∧
    (0 < fill → ¬ turns → w.cont = false → spaced ≤ width →
      c.kinds = [.glyphs (0x20#8 :: text)] ∧ c.fill = spaced) ∧
    (0 < fill → ¬ turns → w.cont = true → fill + text.length ≤ width →
      c.kinds = [.glyphs text] ∧ c.fill = fill + text.length) ∧
    (0 < fill → turns ∨ w.cont = false ∧ width < spaced ∨ w.cont = true ∧ width < fill + text.length →
      text.length ≤ width → c.kinds = [.roll, .glyphs text] ∧ c.fill = text.length) ∧
    (width < text.length →
      ∃ (pieces : List (List Byte)) (last : List Byte),
        pieces.flatten ++ last = text ∧ (∀ p ∈ pieces, p.length = width) ∧
        1 ≤ last.length ∧ last.length ≤ width ∧
        c.kinds = lead ++ (if 0 < fill then [.roll] else []) ++
          pieces.flatMap (fun p => [.glyphs p, .roll]) ++ [.glyphs last] ∧
        c.fill = last.length)

/-! ### The steno lines -/

/-- START_BIT_DETECTED, WIRE_SEEN_HIGH and TRANSMIT_COMPLETE. A start bit is noted with the record in force,
enabled or not, and noted again over a character that is being passed over: log 15. That TRANSMIT_COMPLETE
with nothing being sent, and WIRE_SEEN_HIGH on a line that waits for no high wire, leave the line as it was
is log 7. -/
def Obligations.WireFollowed : Prop :=
  ∀ (s : State) (l : LineIx), s.resetLow = false →
    (∀ high : Bool, exec (.startBitDetected l high) s = .next (s.updLine l fun x =>
      let looks : Bool := match x.receiver with
        | .watching => true
        | .timing r => !r.enabled
        | .waitHigh => false
      if looks = true ∧ high = false then { x with receiver := .timing x.record } else x)) ∧
    exec (.wireSeenHigh l) s = .next (s.updLine l fun x =>
      if x.receiver = .waitHigh then { x with receiver := .watching } else x) ∧
    ((s.line l).sending = none → exec (.transmitComplete l) s = .next s) ∧
    (∀ k, (s.line l).sending = some k →
      exec (.transmitComplete l) s = .next (s.updLine l fun x =>
        let next : FlowByte := if x.xoff then .xoff else .xon
        { x with
          lastSent := k.byte
          sending := if next = k.byte then none else
            some { byte := next, rate := x.record.rate, dataBits := x.record.dataBits,
                   parity := x.record.parity } }))

/-- CHARACTER_RECEIVED: the counts and the stamp; the substitution of an errored character; the discard of
XON and XOFF; and the byte handed to the decoder, put in the intake FIFO with its flow control, or lost to
an overrun. A character whose start bit fell on a disabled line is passed over, and with no start bit noted
the record is that of an enabled watching line: log 15. R22, R24: the intake FIFO of a line that is not
stalled is handed on item by item, XOFF released at 32 items left and an overrun episode ended at 95; when
the builders and the retries have nothing to do (log 4) this is the next reaction, and when no reaction is
due nothing is left over. -/
def Obligations.CharacterTaken : Prop :=
  (∀ (s : State) (l : LineIx) (data : Byte) (pbit stop : Bool), s.resetLow = false →
    let x := s.line l
    ((x.receiver = .waitHigh ∨ x.receiver = .watching ∧ x.record.enabled = false) →
      exec (.characterReceived l data pbit stop) s = .next s) ∧
    (∀ r, x.receiver = .timing r → r.enabled = false →
      exec (.characterReceived l data pbit stop) s =
        .next (s.updLine l fun _ => { x with receiver := .watching })) ∧
    (∀ r, r.enabled = true → x.receiver = .timing r ∨ x.receiver = .watching ∧ r = x.record →
      let value := if r.dataBits = .seven then data &&& 0x7F#8 else data
      let ones := ((List.range 8).countP fun i => value.getLsbD i) + if pbit then 1 else 0
      let parity := stop = true ∧
        (r.parity = .odd ∧ ones % 2 = 0 ∨ r.parity = .even ∧ ones % 2 = 1)
      let errored : Bool := stop = false ∨ parity
      let y : Line :=
        { x with
          received := bump x.received, stamp := s.pfn
          framingErrors := if stop then x.framingErrors else bump x.framingErrors
          parityErrors := if parity then bump x.parityErrors else x.parityErrors
          receiver := if stop then .watching else .waitHigh }
      let counted := s.updLine l fun _ => y
      let item : IntakeItem := { value := if errored then r.substitute else value, errored := errored }
      let fills := x.record.flow = true ∧ x.xoff = false ∧ 95 ≤ x.fifo.length
      (errored = false → value = 0x11#8 ∨ value = 0x13#8 →
        exec (.characterReceived l data pbit stop) s = .next (settle counted)) ∧
      (errored = true ∨ value ≠ 0x11#8 ∧ value ≠ 0x13#8 →
        (x.fifo = [] → x.asm.held = none →
          exec (.characterReceived l data pbit stop) s = .next (settle (decodeItem l item counted))) ∧
        (x.fifo ≠ [] ∨ x.asm.held ≠ none → x.fifo.length < 128 →
          exec (.characterReceived l data pbit stop) s = .next (settle (s.updLine l fun _ =>
            { y with
              fifo := x.fifo ++ [item]
              xoff := if fills then true else x.xoff
              sending :=
                if fills ∧ x.sending = none ∧ x.lastSent = .xon then
                  some { byte := .xoff, rate := x.record.rate, dataBits := x.record.dataBits,
                         parity := x.record.parity }
                else x.sending }))) ∧
        (128 ≤ x.fifo.length →
          ∃ u, exec (.characterReceived l data pbit stop) s = .next (settle u) ∧
            u = { s.updLine l (fun _ => { y with overruns := bump x.overruns, overrunOpen := true }) with
                  ci := if x.overrunOpen then s.ci
                    else joinNotice (.lineOverrun l (bump x.overruns)) s.ci })))) ∧
  (∀ s : State,
    (Settled s → ∀ l, (s.line l).asm.held = none → (s.line l).fifo = []) ∧
    (∀ (l : LineIx) (i : IntakeItem) (rest : List IntakeItem),
      let x := s.line l
      let releases := x.xoff = true ∧ rest.length = 32
      (∀ v, builderReact v s = none) → (∀ m, (s.line m).asm.retryOwed = false) →
      (∀ m < l, (s.line m).asm.held ≠ none ∨ (s.line m).fifo = []) →
      x.asm.held = none → x.fifo = i :: rest →
      react s = some (decodeItem l i (s.updLine l fun _ =>
        { x with
          fifo := rest
          overrunOpen := if rest.length = 95 then false else x.overrunOpen
          xoff := if releases then false else x.xoff
          sending :=
            if releases ∧ x.sending = none ∧ x.lastSent = .xoff then
              some { byte := .xon, rate := x.record.rate, dataBits := x.record.dataBits,
                     parity := x.record.parity }
            else x.sending }))))

/-- R27, R28, R33 to R37, R43, R79, R92: what each byte does that reaches the decoder. -/
def Obligations.DecoderActs : Prop :=
  ∀ (s : State) (l : LineIx) (i : IntakeItem),
    let a := (s.line l).asm
    let n := i.value.toNat
    let glyph := 0x21 ≤ n ∧ n ≤ 0x7E ∨ 0xA0 ≤ n ∧ (s.line l).record.dataBits = .eight
    let fresh := s.updLine l fun x => { x with commandPending := false }
    let freed := match attachedService s l with
      | some v => s.updSel v fun x => { x with hold := none }
      | none => s
    let grown : Assembler :=
      if a.glyphs = [] then
        { a with glyphs := [{ glyph := i.value, errored := i.errored }], first := some s.pfn,
                 carriedCont := a.carriedCont || a.contPending, contPending := false }
      else { a with glyphs := a.glyphs ++ [{ glyph := i.value, errored := i.errored }] }
    ((s.line l).commandPending = false →
      (glyph → a.glyphs.length < 31 → decodeItem l i s = freed.updAsm l fun _ => grown) ∧
      (glyph → 31 ≤ a.glyphs.length →
        decodeItem l i s = (completeWord l false (freed.updAsm l fun _ => grown)).updAsm l fun y =>
          { y with contPending := true }) ∧
      (n = 0x20 ∨ n = 0x0D ∨ n = 0x0A →
        (a.glyphs = [] → decodeItem l i s = s.updAsm l fun y => { y with contPending := false }) ∧
        (a.glyphs ≠ [] → decodeItem l i s = completeWord l false s)) ∧
      (n = 0x08 →
        (2 ≤ a.glyphs.length →
          decodeItem l i s = s.updAsm l fun y => { y with glyphs := a.glyphs.dropLast }) ∧
        (a.glyphs.length = 1 → decodeItem l i s = s.updAsm l fun y =>
          { y with
            glyphs := [], first := none, retracted := none
            contPending := a.contPending || a.carriedCont
            speakerPending := a.speakerPending || a.carriedSpeaker
            breakPending := a.breakPending || a.carriedBreak
            carriedCont := false, carriedSpeaker := false, carriedBreak := false })) ∧
      (n = 0x1E → decodeItem l i s = s.updLine l fun x => { x with commandPending := true }) ∧
      (¬ glyph → n ∉ [0x08, 0x0A, 0x0D, 0x1E, 0x20] →
        decodeItem l i s = s.updLine l fun x => { x with discards := bump x.discards })) ∧
    ((s.line l).commandPending = true →
      (i.errored = true ∨ n ∉ [0x53, 0x50, 0x43, 0x46, 0x4E, 0x48] →
        decodeItem l i s = fresh.updLine l fun x => { x with discards := bump x.discards }) ∧
      (i.errored = false →
        (n = 0x53 → decodeItem l i s = fresh.updAsm l fun y =>
          { y with speakerPending := true, contPending := false }) ∧
        (n = 0x50 →
          (a.glyphs = [] → decodeItem l i s = fresh.updAsm l fun y =>
            { y with breakPending := true, contPending := false }) ∧
          (a.glyphs ≠ [] → decodeItem l i s = completeWord l true fresh)) ∧
        (n = 0x46 →
          (a.glyphs = [] → decodeItem l i s = fresh) ∧
          (a.glyphs ≠ [] → decodeItem l i s = completeWord l false fresh)) ∧
        (n = 0x43 → a.glyphs = [] → a.held = none → decodeItem l i s = routeMarker l s.pfn fresh) ∧
        (n = 0x43 → a.glyphs ≠ [] →
          let done := completeWord l false fresh
          ((done.line l).asm.held = none → decodeItem l i s = routeMarker l s.pfn done) ∧
          ((done.line l).asm.held ≠ none →
            decodeItem l i s = done.updAsm l fun y => { y with clearPending := some s.pfn })) ∧
        (n = 0x4E →
          (∀ v, attachedService s l = some v → decodeItem l i s = trigger v s.pfn fresh) ∧
          (attachedService s l = none → decodeItem l i s = fresh)) ∧
        (n = 0x48 →
          (∀ v, attachedService s l = some v →
            decodeItem l i s = if (s.service v).record.fh = 0 then fresh
              else fresh.updSel v fun x => { x with hold := some s.pfn, holds := bump x.holds }) ∧
          (attachedService s l = none → decodeItem l i s = fresh))))

/-- R39, R40, R41, R54, R56: the record of a completed word, and where it goes. -/
def Obligations.WordIsRouted : Prop :=
  ∀ (s : State) (l : LineIx) (after : Bool), LinesIsolated s →
    let a := (s.line l).asm
    let w : WordRecord :=
      { glyphs := a.glyphs, line := l
        arrival := match a.retracted with
          | some r => r.arrival
          | none => s.pfn
        speaker := a.speakerPending || a.carriedSpeaker
        breakBefore := a.breakPending || a.carriedBreak
        breakAfter := after, cont := a.carriedCont, floor := a.retracted.map Retracted.floor }
    let done (first : Bool) (held : Option Held) (lost : Bool) : State := s.updLine l fun x =>
      { x with
        asm := { x.asm with
          glyphs := [], first := none, retracted := none, carriedSpeaker := false
          carriedBreak := false, carriedCont := false, speakerPending := false, breakPending := false
          completed := bump x.asm.completed, held := held
          unrouted := if lost then bump x.asm.unrouted else x.asm.unrouted }
        lat := { x.lat with firstWord := first, lastCompletion := some s.pfn } }
    ((∀ v, hasLine (s.service v) l = false) → completeWord l after s = done false a.held true) ∧
    (∀ v, hasLine (s.service v) l = true →
      let x := s.service v
      let first : Bool := a.retracted = none ∧ (∀ g ∈ a.glyphs, g.errored = false) ∧
        (∀ f, (s.line l).lat.lastCompletion = some f → (x.record.gap : Int) ≤ frameDiff f s.pfn)
      let target := targetFrame s v (.word w) w.floor
      let late := figure (frameDiff (rawTarget s v (.word w)) target)
      let joined := (done first a.held false).updSched v fun q =>
        { q with queue := q.queue ++ [{ body := .word w, target := target }], lastLateness := late
                 maxLateness := maxFigure q.maxLateness late }
      (attachedLine x = some l → x.sel.mode = .live → x.sched.queue.length < 64 →
        completeWord l after s = if first then pairOnset l v w.arrival joined else joined) ∧
      (attachedLine x = some l → x.sel.mode = .live → 64 ≤ x.sched.queue.length →
        completeWord l after s =
          (done first (some { item := .word w, on := v }) false).updSched v fun q =>
            { q with fullRefusals := bump q.fullRefusals }) ∧
      (attachedLine x = some l → x.sel.mode = .script →
        completeWord l after s = done false a.held true) ∧
      (attachedLine x ≠ some l → x.sel.standby.length < 8 →
        completeWord l after s = (done false a.held false).updSel v fun y =>
          { y with standby := y.standby ++ [w] }) ∧
      (attachedLine x ≠ some l → 8 ≤ x.sel.standby.length →
        completeWord l after s = (done false a.held false).updSel v fun y =>
          { y with standby := y.standby.tail ++ [w], standbyDropped := bump y.standbyDropped }))

/-- R44, R47: a backspace on an empty word takes back the youngest entry, if it is a word of this line not
yet released, and is a late correction otherwise; a line whose held item waits on a queue that an entry has
left looks again. F of the reopened word is a free value, a past frame number at most 2^19 behind PFN as R3
has it: log 3. What a retraction out of the open block leaves of a pending closing and its carry, and that a
word not whole in the block stays, is log 12. -/
def Obligations.BackspaceReachesBack : Prop :=
  ∀ (s : State) (l : LineIx) (i : IntakeItem), (s.line l).commandPending = false →
    i.value = 0x08#8 → (s.line l).asm.glyphs = [] →
    let a := (s.line l).asm
    let late := s.updAsm l fun y => { y with late := bump y.late }
    let first : Frame := moved s.pfn (-((Config.reopenedAge s.draws).val : Int))
    let back (v : ServiceIx) (w : WordRecord) (t : Frame) : Assembler :=
      if 2 ≤ w.glyphs.length then
        { a with
          glyphs := w.glyphs.dropLast, first := some first
          retracted := some { service := v, arrival := w.arrival, floor := t }
          carriedSpeaker := w.speaker, carriedBreak := w.breakBefore, carriedCont := w.cont
          retractions := bump a.retractions }
      else
        { a with
          glyphs := [], first := none, retracted := none, carriedSpeaker := false
          carriedBreak := false, carriedCont := false
          speakerPending := a.speakerPending || w.speaker
          breakPending := a.breakPending || w.breakBefore
          contPending := a.contPending || w.cont, retractions := bump a.retractions }
    (0 ≤ frameDiff first s.pfn ∧ frameDiff first s.pfn ≤ 524288) ∧
    (attachedService s l = none → decodeItem l i s = late) ∧
    (∀ v, attachedService s l = some v →
      let x := s.service v
      (∀ e w, x.sched.queue.getLast? = some e → e.body = .word w → w.line = l →
        let owes (m : LineIx) : Bool :=
          if (s.line m).asm.held.map Held.on = some v then true else (s.line m).asm.retryOwed
        ∃ u, decodeItem l i s = u ∧ u.draws = s.draws + 1 ∧ u.settings = s.settings ∧
          u.service v =
            { x with sched := { x.sched with queue := x.sched.queue.dropLast,
                                             lastLeft := some e.target } } ∧
          (∀ j, v ≠ j → u.service j = s.service j) ∧
          u.line l = { s.line l with asm := { back v w e.target with retryOwed := owes l } } ∧
          (∀ m, m ≠ l →
            u.line m = { s.line m with asm := { (s.line m).asm with retryOwed := owes m } }) ∧
          u = { s with lines := u.lines, services := u.services, draws := u.draws }) ∧
      (∀ e, x.sched.queue.getLast? = some e → (∀ w, e.body = .word w → w.line ≠ l) →
        decodeItem l i s = late) ∧
      (∀ p, x.sched.queue = [] → x.cb.openBlock.words.getLast? = some p → p.whole = true →
        p.word.line = l →
        decodeItem l i s =
          { (s.updCb v fun c =>
              { c with openBlock :=
                { words := c.openBlock.words.dropLast, rows := p.before, carry := none
                  closing := if c.openBlock.words.length = 1 then none else c.openBlock.closing
                  expiring := c.openBlock.expiring && decide (c.openBlock.words.length ≠ 1) }
              }).updAsm l (fun _ => back v p.word p.target) with draws := s.draws + 1 }) ∧
      (x.sched.queue = [] →
        (∀ p, x.cb.openBlock.words.getLast? = some p → p.whole = false ∨ p.word.line ≠ l) →
        decodeItem l i s = late))

/-! ### Onsets -/

/-- R52, R56: an onset offered to the list, and a first word paired with it. -/
def Obligations.OnsetsAdmittedAndPaired : Prop :=
  (∀ (o : Frame) (x : Onsets),
    (o ∈ x.frames → admitOnset o x = x) ∧
    (o ∉ x.frames → x.frames.length < 8 →
      (admitOnset o x).frames.Perm (o :: x.frames) ∧
      admitOnset o x = { x with frames := (admitOnset o x).frames, admitted := bump x.admitted }) ∧
    (∀ p ps, o ∉ x.frames → x.frames = p :: ps → 8 ≤ x.frames.length →
      (strictlyBefore p o = true → (admitOnset o x).frames.Perm (o :: ps) ∧
        admitOnset o x = { x with frames := (admitOnset o x).frames, admitted := bump x.admitted,
                                  dropped := bump x.dropped }) ∧
      (strictlyBefore p o = false → admitOnset o x = { x with dropped := bump x.dropped })) ∧
    (∀ base : Frame, (∀ y ∈ o :: x.frames, (frameDiff base y).natAbs ≤ 1048576) →
      x.frames.Pairwise (fun y z => strictlyBefore y z = true) →
      (admitOnset o x).frames.Pairwise fun y z => strictlyBefore y z = true)) ∧
  (∀ (s : State) (l : LineIx) (v : ServiceIx) (arrival : Frame) (stale live : List Frame),
    let r := (s.line l).record
    (s.service v).onsets.frames = stale ++ live →
    (∀ o ∈ stale, strictlyBefore o (moved arrival (-(r.lmax : Int))) = true) →
    (∀ o ∈ live, strictlyBefore o (moved arrival (-(r.lmax : Int))) = false) →
    let aged (rest : List Frame) := s.updOnsets v fun x =>
      { x with frames := rest, expired := bumpBy x.expired stale.length }
    (∀ o rest, live = o :: rest → atOrBefore o (moved arrival (-(r.lmin : Int))) = true →
      pairOnset l v arrival s = (aged rest).updLat l fun x =>
        { x with
          lastSample := some (frameDiff o arrival).toNat, samples := bump x.samples
          lest := if r.adaptive then updateLest x.lest (frameDiff o arrival).toNat else x.lest
          firstWord := false }) ∧
    ((∀ o rest, live = o :: rest → atOrBefore o (moved arrival (-(r.lmin : Int))) = false) →
      pairOnset l v arrival s = (aged live).updLat l fun x =>
        { x with unpaired := bump x.unpaired, firstWord := false }))

/-! ### Frame-start work -/

/-- FLUSH_DELAY_EXPIRY, ONSET_EXPIRY, STANDBY_AGE_OUT and STENOGRAPHER_HOLD_EXPIRY, each taking its piece
of the work that is due. R76: a hold is looked at after the age-out and before the silence check; where
either of these is still due it is taken with it, in that order (log 1). The reactions follow (log 4). -/
def Obligations.AgesChecked : Prop :=
  ∀ s : State, s.resetLow = false →
    let taken (w : Work) : State := { s with due := s.due.erase w }
    (∀ l, .flush l ∈ s.due →
      let silent := ((s.line l).record.flushDelay : Int) ≤ frameDiff (s.line l).stamp s.pfn
      (¬ silent ∨ (s.line l).asm.glyphs = [] →
        exec (.flushDelayExpiry l) s = .next (settle (taken (.flush l)))) ∧
      (silent → (s.line l).asm.glyphs ≠ [] →
        exec (.flushDelayExpiry l) s = .next (settle (completeWord l false (taken (.flush l)))))) ∧
    (∀ v, .onsetExpiry v ∈ s.due →
      let old (o : Frame) : Bool := 1023 < frameDiff o s.pfn
      exec (.onsetExpiry v) s = .next (settle ((taken (.onsetExpiry v)).updOnsets v fun x =>
        { x with frames := x.frames.filter fun o => !old o
                 expired := bumpBy x.expired (x.frames.countP old) }))) ∧
    (∀ v, .ageOut v ∈ s.due →
      let r := (s.service v).record
      let old (w : WordRecord) : Bool := (r.fs : Int) ≤ frameDiff w.arrival s.pfn
      (r.enabled = true → r.fs ≠ 0 →
        exec (.standbyAgeOut v) s = .next (settle ((taken (.ageOut v)).updSel v fun x =>
          { x with standby := x.standby.filter fun w => !old w
                   standbyExpired := bumpBy x.standbyExpired (x.standby.countP old) }))) ∧
      (r.enabled = false ∨ r.fs = 0 →
        exec (.standbyAgeOut v) s = .next (settle (taken (.ageOut v))))) ∧
    (∀ v, .holdEnd v ∈ s.due →
      let r := (s.service v).record
      let ended := r.enabled = true ∧
        ∃ f, (s.service v).sel.hold = some f ∧ (r.fh : Int) ≤ frameDiff f s.pfn
      let free := settle ((taken (.holdEnd v)).updSel v fun x => { x with hold := none })
      (.ageOut v ∈ s.due → .ageOut v ∉ s.due.erase (.ageOut v) →
        ∃ u t, exec (.standbyAgeOut v) s = .next u ∧ exec (.stenographerHoldExpiry v) s = .next t ∧
          exec (.stenographerHoldExpiry v) u = .next t) ∧
      (.ageOut v ∉ s.due → ¬ ended →
        exec (.stenographerHoldExpiry v) s = .next (settle (taken (.holdEnd v)))) ∧
      (.ageOut v ∉ s.due → ended → .silence v ∉ s.due →
        exec (.stenographerHoldExpiry v) s = .next free) ∧
      (.ageOut v ∉ s.due → .holdEnd v ∉ s.due.erase (.holdEnd v) → ended → .silence v ∈ s.due →
        ∃ t, exec (.stenographerHoldExpiry v) s = .next t ∧
          exec (.silenceLimitReached v) free = .next t ∧
          t = settle (checkSilence v { free with due := free.due.erase (.silence v) })))

/-- HELD_WORD_RETRY, and the retry that a departure owes, look again at the held item; what that does with a
word and with a CLEAR marker, by the routing of the line and the room of the queue; and how a marker is
routed. That a retry which finds the queue full counts a refused offer is the model's reading: log 8. That
an owed retry follows the builders' reactions, and another line's by number, is log 4. -/
def Obligations.HeldWordRetried : Prop :=
  (∀ (s : State) (l : LineIx), s.resetLow = false → .retry l ∈ s.due →
    let taken : State := { s with due := s.due.erase (.retry l) }
    ((s.line l).asm.held = none → exec (.heldWordRetry l) s = .next (settle taken)) ∧
    ((s.line l).asm.held ≠ none → exec (.heldWordRetry l) s = .next (settle (retryHeld l taken)))) ∧
  (∀ (s : State) (l : LineIx), (∀ v, builderReact v s = none) →
    (∀ m < l, (s.line m).asm.retryOwed = false) → (s.line l).asm.retryOwed = true →
    react s = some (retryHeld l s)) ∧
  (∀ (s : State) (l : LineIx), LinesIsolated s →
    let a := (s.line l).asm
    let looked := s.updAsm l fun y => { y with retryOwed := false }
    let unheld (u : State) : State := u.updAsm l fun y => { y with held := none, clearPending := none }
    let goesOn (u : State) : State := match a.clearPending with
      | some f => routeMarker l f (unheld u)
      | none => unheld u
    let lost : State := looked.updAsm l fun y => { y with unrouted := bump y.unrouted }
    let unmarked (u : State) : State := u.updLat l fun y => { y with firstWord := false }
    let refused (v : ServiceIx) (i : HeldItem) : State :=
      (looked.updSched v fun q => { q with fullRefusals := bump q.fullRefusals }).updAsm l fun y =>
        { y with held := some { item := i, on := v } }
    let joined (v : ServiceIx) (body : EntryBody) (floor : Option Frame) : State :=
      looked.updSched v fun q =>
        let target := targetFrame s v body floor
        let late := figure (frameDiff (rawTarget s v body) target)
        { q with queue := q.queue ++ [{ body := body, target := target }], lastLateness := late
                 maxLateness := maxFigure q.maxLateness late }
    (∀ w on, a.held = some { item := .word w, on := on } →
      ((∀ v, hasLine (s.service v) l = false) → retryHeld l s = goesOn (unmarked lost)) ∧
      (∀ v, hasLine (s.service v) l = true →
        let x := s.service v
        (attachedLine x = some l → x.sel.mode = .live → x.sched.queue.length < 64 →
          retryHeld l s = goesOn (if (s.line l).lat.firstWord
            then pairOnset l v w.arrival (joined v (.word w) w.floor)
            else joined v (.word w) w.floor)) ∧
        (attachedLine x = some l → x.sel.mode = .live → 64 ≤ x.sched.queue.length →
          retryHeld l s = refused v (.word w)) ∧
        (attachedLine x = some l → x.sel.mode = .script → retryHeld l s = goesOn (unmarked lost)) ∧
        (attachedLine x ≠ some l → x.sel.standby.length < 8 →
          retryHeld l s = goesOn (unmarked (looked.updSel v fun y =>
            { y with standby := y.standby ++ [w] }))) ∧
        (attachedLine x ≠ some l → 8 ≤ x.sel.standby.length →
          retryHeld l s = goesOn (unmarked (looked.updSel v fun y =>
            { y with standby := y.standby.tail ++ [w]
                     standbyDropped := bump y.standbyDropped }))))) ∧
    (∀ f on, a.held = some { item := .marker f, on := on } →
      ((∀ v, hasLine (s.service v) l = false) → retryHeld l s = goesOn lost) ∧
      (∀ v, hasLine (s.service v) l = true →
        let x := s.service v
        (attachedLine x = some l → x.sel.mode = .live → x.sched.queue.length < 64 →
          retryHeld l s = goesOn (joined v (.clear l f) none)) ∧
        (attachedLine x = some l → x.sel.mode = .live → 64 ≤ x.sched.queue.length →
          retryHeld l s = refused v (.marker f)) ∧
        (attachedLine x ≠ some l ∨ x.sel.mode = .script → retryHeld l s = goesOn lost)))) ∧
  (∀ (s : State) (l : LineIx) (f : Frame), LinesIsolated s →
    let lost : State := s.updAsm l fun y => { y with unrouted := bump y.unrouted }
    ((∀ v, hasLine (s.service v) l = false) → routeMarker l f s = lost) ∧
    (∀ v, hasLine (s.service v) l = true →
      let x := s.service v
      let target := targetFrame s v (.clear l f) none
      let late := figure (frameDiff (rawTarget s v (.clear l f)) target)
      (attachedLine x = some l → x.sel.mode = .live → x.sched.queue.length < 64 →
        routeMarker l f s = s.updSched v fun q =>
          { q with queue := q.queue ++ [{ body := .clear l f, target := target }], lastLateness := late
                   maxLateness := maxFigure q.maxLateness late }) ∧
      (attachedLine x = some l → x.sel.mode = .live → 64 ≤ x.sched.queue.length →
        routeMarker l f s =
          (s.updSched v fun q => { q with fullRefusals := bump q.fullRefusals }).updAsm l fun y =>
            { y with held := some { item := .marker f, on := v } }) ∧
      (attachedLine x ≠ some l ∨ x.sel.mode = .script → routeMarker l f s = lost)))

/-- R63, R64, R65: the run of an input at a frame start, and GPI_EDGE_ACCEPTED by the input's function, with
the reactions that follow (log 4). -/
def Obligations.EdgesDelivered : Prop :=
  (∀ (x : Input) (level : Bool),
    (x.accepted = none → sample level x = { x with accepted := some level, run := 0 }) ∧
    (x.accepted = some level → sample level x = { x with run := 0 }) ∧
    (x.accepted = some (!level) → sample level x = { x with run := x.run + 1 })) ∧
  (∀ (s : State) (i : InputIx), s.resetLow = false → .edge i ∈ s.due →
    let x := s.input i
    let r := x.record
    let v := r.target
    let taken : State := { s with due := s.due.erase (.edge i) }
    let edge := s.pfn - BitVec.ofNat 32 r.nr
    (x.run ≤ r.nr ∨ x.accepted = none → exec (.gpiEdgeAccepted i) s = .next (settle taken)) ∧
    (∀ a, x.accepted = some a → r.nr < x.run →
      let toActive : Bool := (!a) = r.activeHigh
      let base := taken.updInput i fun y =>
        { y with
          accepted := some (!a), run := 0
          asserts := if toActive then bump y.asserts else y.asserts
          deasserts := if toActive then y.deasserts else bump y.deasserts }
      let acts (f : State → State) := exec (.gpiEdgeAccepted i) s = .next (settle (f base))
      (r.function = .none → acts id) ∧
      (r.function = .onset → toActive = true → (s.service v).record.enabled = true →
        acts fun u => u.updOnsets v (admitOnset edge)) ∧
      (r.function = .onset → toActive = false ∨ (s.service v).record.enabled = false → acts id) ∧
      (r.function ≠ .onset → (s.service v).record.enabled = false → acts id) ∧
      (r.function = .cue ∨ r.function = .clear → toActive = false → acts id) ∧
      ((s.service v).record.enabled = true →
        (r.function = .cue → toActive = true → acts (trigger v edge)) ∧
        (r.function = .mode → toActive = true → acts (setMode v .script)) ∧
        (r.function = .mode → toActive = false → acts (setMode v .live)) ∧
        (r.function = .mute → toActive = true → (s.service v).sel.muted = true → acts id) ∧
        (r.function = .mute → toActive = true → (s.service v).sel.muted = false →
          acts fun u => u.updService v fun y =>
            { y with
              sel := { y.sel with muted := true }
              cb := { y.cb with form := .none, fill := 0, newRow := false, lastRelease := none,
                                timer := .idle }
              om := { y.om with fifo := [{ kind := .clear, notBefore := none, story := none }] } }) ∧
        (r.function = .mute → toActive = false →
          acts fun u => u.updSel v fun y => { y with muted := false }) ∧
        (r.function = .clear → toActive = true →
          acts fun u => u.updService v fun y =>
            { y with
              cb := { y.cb with form := .none, fill := 0, newRow := false, lastRelease := none,
                                cue := none, blocks := [], shown := none, timer := .idle }
              om := { y.om with fifo := [{ kind := .clear, notBefore := none, story := none }] } }))))

/-- SILENCE_LIMIT_REACHED: the earlier steps of R76 that are still due are taken with it, the age-out and then
the end of the hold (log 1; `AgesChecked` says what they do); then the four outcomes of the silence check, and
a check that does not run: among others, until the frame start after a return to LIVE mode (R82); with the
reactions that follow (log 4). -/
def Obligations.SilenceChecked : Prop :=
  (∀ (s : State) (v : ServiceIx), s.resetLow = false →
    let step (w : Work) (u : State) : State :=
      if w ∈ u.due then settle (perform w { u with due := u.due.erase w }) else u
    let earlier := step (.holdEnd v) (step (.ageOut v) s)
    exec (.silenceLimitReached v) s = .next (step (.silence v) earlier) ∧
    earlier.due = (s.due.erase (.ageOut v)).erase (.holdEnd v) ∧
    (.ageOut v ∉ s.due.erase (.ageOut v) → .holdEnd v ∉ s.due.erase (.holdEnd v) →
      exec (.silenceLimitReached v) s = exec (.silenceLimitReached v) earlier)) ∧
  ∀ (s : State) (v : ServiceIx), s.resetLow = false → .silence v ∈ s.due →
    .ageOut v ∉ s.due → .holdEnd v ∉ s.due →
    let x := s.service v
    let r := x.record
    let taken : State := { s with due := s.due.erase (.silence v) }
    let silence (l : LineIx) : Int := frameDiff (s.line l).stamp s.pfn
    let done (u : State) : Prop := exec (.silenceLimitReached v) s = .next (settle u)
    (r.enabled = false ∨ x.sel.mode = .script ∨ r.fs = 0 ∨ x.sel.hold ≠ none ∨
        x.sel.awaitsFrame = true ∨ attachedLine x = none →
      done taken) ∧
    (∀ l, r.enabled = true → x.sel.mode = .live → r.fs ≠ 0 → x.sel.hold = none →
      x.sel.awaitsFrame = false → attachedLine x = some l →
      let other := if x.sel.choice = .primary then r.backup else r.primary
      let active := ∃ m, other = some m ∧ (s.line m).record.enabled = true ∧ silence m < r.fs
      (silence l < r.fs →
        done (taken.updSel v fun y => { y with silentNotified := false })) ∧
      (∀ m, (r.fs : Int) ≤ silence l → other = some m → active →
        let turned := (flushWord l taken).updSel v fun y =>
          { y with choice := if x.sel.choice = .primary then .backup else .primary, hold := none }
        let merged := mergeStandby v turned
        let count := x.sel.standby.length
        done (raise (.failover v l m s.pfn merged.2 (count - merged.2))
          (merged.1.updSel v fun y =>
            { y with failovers := bump y.failovers, silentNotified := false }))) ∧
      ((r.fs : Int) ≤ silence l → ¬ active → x.sel.silentNotified = false →
        done (raise (.sourceSilent v l (s.pfn - (s.line l).stamp))
          (taken.updSel v fun y => { y with silentNotified := true }))) ∧
      ((r.fs : Int) ≤ silence l → ¬ active → x.sel.silentNotified = true → done taken))

/-- R92, R93, R95, R104: TIMED_ISSUE, and a trigger from an input or from 'N'. That a lost trigger and a
deferral count a full refusal beside the runner's own count is the model's reading: log 8. The reactions
follow a timed check (log 4). -/
def Obligations.CuesFallDue : Prop :=
  ∀ (s : State) (v : ServiceIx),
    let x := s.service v
    let refusing (y : Service) : Service :=
      { y with sched := { y.sched with fullRefusals := bump y.sched.fullRefusals } }
    (∀ a : Frame,
      let taken := (x.runner.phase = .armed ∨ x.runner.phase = .running) ∧ x.sel.mode = .script
      (¬ taken → trigger v a s = s.updRunner v fun r => { r with ignored := bump r.ignored }) ∧
      (taken → 64 ≤ x.sched.queue.length →
        trigger v a s =
          (s.updService v refusing).updRunner v fun r => { r with lost := bump r.lost }) ∧
      (∀ u, taken → issueCue v a s = some u → trigger v a s = u)) ∧
    (s.resetLow = false → .timed v ∈ s.due →
      let taken : State := { s with due := s.due.erase (.timed v) }
      let timed := ∃ k st, x.runner.story = some k ∧ storeGet k s.stories = some st ∧ st.advance = .timed
      (x.runner.phase ≠ .running ∨ x.runner.timingHeld = true ∨ x.runner.nextBase = none ∨ ¬ timed →
        exec (.timedIssue v) s = .next (settle taken)) ∧
      (∀ base, x.runner.phase = .running → x.runner.timingHeld = false →
        x.runner.nextBase = some base → timed →
        let due := base - BitVec.ofInt 32 (s.device.delay + x.record.sofs)
        (atOrBefore due s.pfn = false → exec (.timedIssue v) s = .next (settle taken)) ∧
        (atOrBefore due s.pfn = true → 64 ≤ x.sched.queue.length →
          exec (.timedIssue v) s = .next (settle ((taken.updService v refusing).updRunner v fun r =>
            { r with deferrals := bump r.deferrals }))) ∧
        (∀ u, atOrBefore due s.pfn = true → issueCue v due taken = some u →
          exec (.timedIssue v) s = .next (settle u))))

/-- ROLL_UP_RELEASE serves the queue of an enabled service; then where a serving stops, and what one release
does before the next head is served; a line whose held item waits on the queue looks again after it, among
the reactions that follow (log 4). -/
def Obligations.RollUpServed : Prop :=
  (∀ (s : State) (v : ServiceIx), s.resetLow = false → .serve v ∈ s.due →
    let taken : State := { s with due := s.due.erase (.serve v) }
    exec (.rollUpRelease v) s = .next (settle (if (s.service v).record.enabled then
      serveUpTo v (s.service v).sched.queue.length (settle taken) else taken))) ∧
  (∀ (s : State) (v : ServiceIx) (n : Nat),
    let x := s.service v
    let done := serveUpTo v (n + 1) s
    serveUpTo v 0 s = s ∧ (x.sched.queue = [] → done = s) ∧
    (∀ e rest, x.sched.queue = e :: rest →
      let rollUp := x.record.display = .rollUp ∧ ∀ k i t a, e.body ≠ .cue k i t a
      let lag := figure (frameDiff e.target s.pfn)
      let left (u : State) : Prop :=
        (u.service v).sched =
          { x.sched with queue := rest, lastLeft := some e.target, releases := bump x.sched.releases
                         maxLag := maxFigure x.sched.maxLag lag } ∧
        (∀ w, w ≠ v → u.service w = s.service w) ∧ u.settings = s.settings ∧ u.ci = s.ci ∧
        (∀ l, u.line l =
          if (s.line l).asm.held.map Held.on = some v then
            { s.line l with asm := { (s.line l).asm with retryOwed := true } }
          else s.line l)
      let goesOn (u : State) : Prop := done = serveUpTo v n (settle u)
      (¬ rollUp ∨ atOrBefore e.target s.pfn = false → done = s) ∧
      (rollUp → atOrBefore e.target s.pfn = true → x.sel.muted = true →
        ∃ u, goesOn u ∧ left u ∧ (u.service v).cb = x.cb ∧ (u.service v).om = x.om ∧
          (u.service v).sel = { x.sel with muteDiscards := bump x.sel.muteDiscards }) ∧
      (∀ w, rollUp → atOrBefore e.target s.pfn = true → x.sel.muted = false → e.body = .word w →
        let c := compose x.record.width w x.cb
        let units : List OutUnit := c.kinds.map fun k => { kind := k, notBefore := none, story := none }
        let fits := bytesHeld x.om + unitsCost units ≤ 256
        (¬ fits → done = s.updSched v fun q => { q with stalls := bump q.stalls }) ∧
        (fits → ∃ u, goesOn u ∧ left u ∧ (u.service v).sel = x.sel ∧
          (u.service v).om = { x.om with fifo := x.om.fifo ++ units } ∧
          (u.service v).cb =
            { x.cb with form := .rolling, fill := c.fill, newRow := c.newRow,
                        lastRelease := some s.pfn
                        timer := if x.cb.form = .rolling then x.cb.timer else .idle })) ∧
      (∀ l a, rollUp → atOrBefore e.target s.pfn = true → x.sel.muted = false → e.body = .clear l a →
        (256 ≤ bytesHeld x.om →
          done = s.updSched v fun q => { q with stalls := bump q.stalls }) ∧
        (bytesHeld x.om < 256 → ∃ u, goesOn u ∧ left u ∧ (u.service v).sel = x.sel ∧
          (u.service v).om =
            { x.om with
              fifo := x.om.fifo ++ [{ kind := .clear, notBefore := none, story := none }] } ∧
          (u.service v).cb = { x.cb with fill := 0, newRow := false, timer := .idle }))))

/-! ### The caption builders -/

/-- What the closing of the open block does, and how the pieces of a long word are placed: in the rows left,
over a closing, or as the carry of a pending one. Then POP_ON_TAKE of a WORD, a CLEAR and a CUE,
PENDING_CLOSING with and without a carry, and CUE_BLOCK_FORMATION, each with the reactions that follow; and
each of these is the next reaction of its own when it is due: a closing before a formation before a take,
and the builder of the lowest service first (log 4). The reactions of an event are taken one after another
until none is due, or 2^20 have been taken (log 4); they leave the settings alone, and do nothing when none
is due; whether one is due does not rest on the agenda. A word that meets the hold expiry still
to be taken is closed by it, wherever it stands (R138), though it be placed as a carry (log 12 for what the
table leaves open). That a carry begins a block with its word's T and keeps its pieces as they were cut, and
that a pending closing keeps its first cause, is log 12. That a reaction named when it is not due leaves the
state as it was is log 7. -/
def Obligations.BuilderReacts : Prop :=
  (∀ s : State, (settle s).settings = s.settings ∧ (Settled s → settle s = s) ∧
    (∀ ws, Settled { s with due := ws } ↔ Settled s) ∧
    (∃ (n : Nat) (between : Nat → State), between 0 = s ∧ between n = settle s ∧
      (∀ i < n, react (between i) = some (between (i + 1))) ∧
      n ≤ 1048576 ∧ (n < 1048576 → Settled (settle s)))) ∧
  (∀ (s : State) (v : ServiceIx) (cause : CloseCause),
    let b := (s.service v).cb
    let o := b.openBlock
    (o.words = [] → closeOpen v cause s = s) ∧
    (∀ p ps, o.words = p :: ps →
      (b.blocks.length < 4 → closeOpen v cause s = attemptAppend v (s.updCb v fun c =>
        { c with
          openBlock := { words := [], rows := [], closing := none, carry := none, expiring := false }
          blocks := c.blocks ++ [.text (closedText s v o.rows p.target none none)]
          blocksClosed := bump c.blocksClosed
          holdExpiries :=
            if o.closing.getD cause = .holdExpiry then bump c.holdExpiries else c.holdExpiries })) ∧
      (4 ≤ b.blocks.length → closeOpen v cause s = s.updCb v fun c =>
        { c with openBlock := { o with closing := some (o.closing.getD cause) } }))) ∧
  (∀ (s : State) (v : ServiceIx) (w : WordRecord) (t : Frame) (started whole : Bool),
    let o := (s.service v).cb.openBlock
    let most := (s.service v).record.rows
    let shut := closeOpen v .ordinary s
    placePieces v w t [] started whole s = (if w.breakAfter then shut else s) ∧
    (∀ ps qs, ps ≠ [] → o.closing = none → o.rows.length + ps.length ≤ most →
      placePieces v w t (ps ++ qs) started whole s =
        placePieces v w t qs true whole (s.updCb v fun c =>
          { c with openBlock :=
            { o with
              rows := o.rows ++ ps
              words := if started then o.words else
                o.words ++ [{ word := w, target := t, before := o.rows, whole := whole }] } })) ∧
    (∀ p ps, most ≤ o.rows.length ∨ o.closing ≠ none → o.words ≠ [] → 1 ≤ most →
      ((shut.service v).cb.openBlock.closing = none →
        placePieces v w t (p :: ps) started whole s =
          placePieces v w t (p :: ps) false (whole && !started) shut) ∧
      ((shut.service v).cb.openBlock.closing ≠ none →
        placePieces v w t (p :: ps) started whole s = shut.updCb v fun c =>
          { c with openBlock :=
            { c.openBlock with carry := some { pieces := p :: ps, word := w, target := t } } }))) ∧
  (∀ (s : State) (v : ServiceIx), s.resetLow = false →
    let x := s.service v
    let b := x.cb
    let o := b.openBlock
    let room := b.blocks.length < 4
    let acts (c : Instr) (u : State) : Prop :=
      exec c s = .next (settle u) ∧ ((∀ w < v, builderReact w s = none) → react s = some u)
    (¬ room ∨ o.closing = none ∧ b.cue = none ∧ (x.sched.queue = [] ∨ x.record.enabled = false ∨
        x.record.display = .rollUp ∧ ∀ e rest, x.sched.queue = e :: rest →
          ∀ k i t a, e.body ≠ .cue k i t a) →
      builderReact v s = none) ∧
    (¬ room ∨ o.closing ≠ none ∨ b.cue ≠ none ∨ x.sched.queue = [] ∨ x.record.enabled = false →
      exec (.popOnTake v) s = .next s) ∧
    (∀ e rest, x.record.enabled = true → room → o.closing = none → b.cue = none →
      x.sched.queue = e :: rest → (o.words = [] → o.rows = []) → 1 ≤ x.record.rows →
      let left : State :=
        { s.updSched v (fun q => { q with queue := rest, lastLeft := some e.target }) with
          lines := s.lines.map fun y =>
            if y.asm.held.map Held.on = some v then { y with asm := { y.asm with retryOwed := true } }
            else y }
      (x.record.display = .rollUp → (∀ k i t a, e.body ≠ .cue k i t a) →
        exec (.popOnTake v) s = .next s) ∧
      (∀ w, x.record.display = .popOn → e.body = .word w →
        let text := (if w.speaker then [0x3E#8, 0x3E#8, 0x20#8] else []) ++
          w.glyphs.map KeyedGlyph.glyph
        let start := if w.speaker ∨ w.breakBefore then closeOpen v .ordinary left else left
        let rows := (start.service v).cb.openBlock.rows
        let put (new : List Row) : State := start.updCb v fun c =>
          { c with openBlock :=
            { c.openBlock with
              words := c.openBlock.words ++ [{ word := w, target := e.target, before := rows,
                                               whole := true }]
              rows := new } }
        let ended (u : State) : State := if w.breakAfter then closeOpen v .ordinary u else u
        let met : Bool := decide (.blockHold v ∈ s.due) && match o.words with
          | [] => false
          | p :: _ => o.expiring ||
              atOrBefore (p.target + BitVec.ofNat 32 x.record.holdLimit) s.pfn
        let marked (u : State) : State := if met then u.updCb v fun c =>
            { c with openBlock := { c.openBlock with expiring := !c.openBlock.words.isEmpty } }
          else u
        let width := x.record.width
        (∀ above row, rows = above ++ [row] →
          let sep : Row := if row = [] ∨ w.cont = true then [] else [0x20#8]
          let fits := row.length + sep.length + text.length ≤ width
          (fits → acts (.popOnTake v) (marked (ended (put (above ++ [row ++ sep ++ text]))))) ∧
          (¬ fits → text.length ≤ width → rows.length < x.record.rows →
            acts (.popOnTake v) (marked (ended (put (rows ++ [text]))))) ∧
          (¬ fits → text.length ≤ width → x.record.rows ≤ rows.length →
            acts (.popOnTake v) (marked
              (placePieces v w e.target [text] false true (closeOpen v .ordinary start))))) ∧
        (rows = [] → text.length ≤ width → acts (.popOnTake v) (marked (ended (put [text])))) ∧
        (width < text.length → 1 ≤ width →
          ∃ pieces last, pieces.flatten ++ last = text ∧ (∀ p ∈ pieces, p.length = width) ∧
            1 ≤ last.length ∧ last.length ≤ width ∧
            acts (.popOnTake v) (marked (placePieces v w e.target (pieces ++ [last]) false true
              (closeOpen v .ordinary start))))) ∧
      (∀ l f, x.record.display = .popOn → e.body = .clear l f →
        let joins (k : Block) : State := attemptAppend v (left.updCb v fun c =>
          { c with blocks := c.blocks ++ [k] })
        (∀ p ps, o.words = p :: ps →
          acts (.popOnTake v) (attemptAppend v (left.updCb v fun c =>
            { c with
              openBlock := { words := [], rows := [], closing := none, carry := none, expiring := false }
              blocks := c.blocks ++ [.text (closedText s v o.rows p.target none (some e.target))]
              blocksClosed := bump c.blocksClosed }))) ∧
        (∀ older y, o.words = [] → b.blocks = older ++ [.text y] → y.story = none →
          acts (.popOnTake v) (left.updCb v fun c =>
            { c with blocks := older ++ [.text { y with
              trailing := if y.trailing = none then some e.target else y.trailing }] })) ∧
        (o.words = [] → (∀ older y, b.blocks = older ++ [.text y] → y.story ≠ none) →
          acts (.popOnTake v) (joins (.clearOnly e.target e.target s.pfn)))) ∧
      (∀ k i t a, e.body = .cue k i t a →
        let lines := (segments t).flatMap fun seg => chunk x.record.width seg.length seg
        let groups := chunk x.record.rows lines.length lines
        let formed : Formation := { story := k, index := i, target := e.target, groups := groups }
        acts (.popOnTake v) ((closeOpen v .ordinary left).updCb v fun c =>
          { c with cue := if groups = [] then none else some formed }))) ∧
    (o.closing = none ∨ ¬ room → exec (.pendingClosing v) s = .next s) ∧
    (∀ cause p ps, o.closing = some cause → room → o.words = p :: ps →
      let shut := attemptAppend v (s.updCb v fun c =>
        { c with
          openBlock := { words := [], rows := [], closing := none, carry := none, expiring := false }
          blocks := c.blocks ++ [.text (closedText s v o.rows p.target none none)]
          blocksClosed := bump c.blocksClosed
          holdExpiries := if cause = .holdExpiry then bump c.holdExpiries else c.holdExpiries })
      (o.carry = none → acts (.pendingClosing v) shut) ∧
      (∀ c, o.carry = some c →
        let u := placePieces v c.word c.target c.pieces false false shut
        acts (.pendingClosing v) (if o.expiring then u.updCb v fun k =>
            { k with openBlock := { k.openBlock with expiring := !k.openBlock.words.isEmpty } }
          else u))) ∧
    (b.cue = none ∨ o.closing ≠ none ∨ ¬ room → exec (.cueBlockFormation v) s = .next s) ∧
    (∀ f g gs, b.cue = some f → f.groups = g :: gs → o.closing = none → room →
      acts (.cueBlockFormation v) (attemptAppend v (s.updCb v fun c =>
        { c with
          cue := if gs = [] then none else some { f with groups := gs }
          blocks := c.blocks ++ [.text (closedText s v g f.target (some f.story) none)]
          blocksClosed := bump c.blocksClosed }))))

/-- What closed blocks become in the output FIFO, and what they cost (R134). BLOCK_HOLD_EXPIRY, against the
T_first of the open block, or because the expiry has met the take of a word that stands in it (R138);
BLOCK_APPEND, STALE_CLEAR, DMAX_CLEAR and DRAIN_COMPLETE. That the hold-expiry check leaves a closing that
is already pending as it is is log 12. The reactions follow each check (log 4). -/
def Obligations.BuilderChecksPass : Prop :=
  (∀ (form : Form) (y : TextBlock),
    let tagged (k : UnitKind) (f : Option Frame) : OutUnit :=
      { kind := k, notBefore := f, story := y.story }
    blockUnits form (.text y) =
      (if form = .block then [] else [tagged .clear (some y.showFrame)]) ++
        (y.rows.flatMap fun r => [tagged .newRow none, tagged (.glyphs r) none]).tail ++
        [tagged .showBlock (some y.showFrame)] ++
        (match y.trailing with
          | none => []
          | some f => [tagged .clear (some f)]) ∧
    (y.rows ≠ [] → unitsCost (blockUnits form (.text y)) =
      3 * y.rows.length + (y.rows.map List.length).sum + (if form = .block then 0 else 1) +
        (if y.trailing = none then 0 else 1)) ∧
    (∀ f t c, blockUnits form (.clearOnly f t c) =
      [{ kind := .clear, notBefore := some f, story := none }])) ∧
  (∀ (s : State) (v : ServiceIx), s.resetLow = false →
    let x := s.service v
    let b := x.cb
    let o := b.openBlock
    let clear : OutUnit := { kind := .clear, notBefore := none, story := none }
    let taken (w : Work) : State := { s with due := s.due.erase w }
    (.blockHold v ∈ s.due →
      let checked : State := (taken (.blockHold v)).updCb v fun c =>
        { c with openBlock := { c.openBlock with expiring := false } }
      (o.words = [] → exec (.blockHoldExpiry v) s = .next (settle checked)) ∧
      (∀ p ps, o.words = p :: ps →
        let past := o.expiring = true ∨
          atOrBefore (p.target + BitVec.ofNat 32 x.record.holdLimit) s.pfn = true
        (¬ past ∨ o.closing ≠ none → exec (.blockHoldExpiry v) s = .next (settle checked)) ∧
        (past → o.closing = none → b.blocks.length < 4 →
          exec (.blockHoldExpiry v) s = .next (settle (attemptAppend v
            (checked.updCb v fun c =>
              { c with
                openBlock := { words := [], rows := [], closing := none, carry := none, expiring := false }
                blocks := c.blocks ++ [.text (closedText s v o.rows p.target none none)]
                blocksClosed := bump c.blocksClosed, holdExpiries := bump c.holdExpiries })))) ∧
        (past → o.closing = none → 4 ≤ b.blocks.length →
          exec (.blockHoldExpiry v) s = .next (settle (checked.updCb v fun c =>
            { c with openBlock := { c.openBlock with closing := some .holdExpiry } }))))) ∧
    (.append v ∈ s.due →
      (b.blocks = [] → exec (.blockAppend v) s = .next (settle (taken (.append v)))) ∧
      (∀ k ks, b.blocks = k :: ks →
        let units := blockUnits b.form k
        let goesOn (u : State) : Prop :=
          exec (.blockAppend v) s = .next (settle (appendBlocks v ks.length u))
        (x.sel.muted = true → goesOn ((taken (.append v)).updService v fun y =>
          { y with cb := { y.cb with blocks := ks }
                   sel := { y.sel with muteDiscards := bump y.sel.muteDiscards } })) ∧
        (x.sel.muted = false → 256 < bytesHeld x.om + unitsCost units →
          exec (.blockAppend v) s = .next (settle (taken (.append v)))) ∧
        (∀ y, x.sel.muted = false → bytesHeld x.om + unitsCost units ≤ 256 → k = .text y →
          goesOn ((taken (.append v)).updService v fun z =>
            { z with
              om := { z.om with fifo := z.om.fifo ++ units }
              cb := { z.cb with blocks := ks, form := .block, shown := some (y.showFrame, y.dur)
                                timer := if y.trailing = none then .waiting else .idle } })) ∧
        (∀ f t c, x.sel.muted = false → bytesHeld x.om < 256 → k = .clearOnly f t c →
          goesOn ((taken (.append v)).updService v fun z =>
            { z with
              om := { z.om with fifo := z.om.fifo ++ [{ clear with notBefore := some f }] }
              cb := { z.cb with blocks := ks, timer := .idle } })))) ∧
    (.stale v ∈ s.due →
      let passes := x.record.enabled = true ∧ x.record.tclear ≠ 0 ∧ b.form = .rolling ∧ 0 < b.fill ∧
        (∃ f, b.lastRelease = some f ∧ (x.record.tclear : Int) ≤ frameDiff f s.pfn) ∧
        bytesHeld x.om < 256
      (¬ passes → exec (.staleClear v) s = .next (settle (taken (.stale v)))) ∧
      (passes → exec (.staleClear v) s = .next (settle ((taken (.stale v)).updService v fun y =>
        { y with
          om := { y.om with fifo := y.om.fifo ++ [clear] }
          cb := { y.cb with fill := 0, newRow := false, timer := .idle,
                            timedClears := bump y.cb.timedClears } })))) ∧
    (.dmax v ∈ s.due →
      let passes := (∃ due, b.timer = .running due ∧ atOrBefore due s.pfn = true) ∧
        bytesHeld x.om < 256
      (¬ passes → exec (.dmaxClear v) s = .next (settle (taken (.dmax v)))) ∧
      (passes → exec (.dmaxClear v) s = .next (settle ((taken (.dmax v)).updService v fun y =>
        { y with
          om := { y.om with fifo := y.om.fifo ++ [clear] }
          cb := { y.cb with timer := .idle, timedClears := bump y.cb.timedClears } })))) ∧
    (.drain v ∈ s.due →
      (∀ k, x.runner.phase = .draining → x.runner.story = some k →
        (∀ u ∈ x.om.fifo, u.story ≠ some k) →
        exec (.drainComplete v) s = .next (settle (raise (.storyDrained v k s.pfn)
          ((taken (.drain v)).updRunner v fun r =>
            { r with phase := .idle, story := none, pointer := 0, remaining := 0, lastCueT := none,
                     nextBase := none, timingHeld := false })))) ∧
      (x.runner.phase ≠ .draining ∨
          (∀ k, x.runner.story = some k → ∃ u ∈ x.om.fifo, u.story = some k) →
        exec (.drainComplete v) s = .next (settle (taken (.drain v))))))

end
end

