-- ==== Sys2Proof/Laws/State.lean ====
section
/-! SUPPORT. The small lemmas of the state: what each update of one part leaves and gives. -/

namespace Sys2Proof

/-! ### Fixed-size collections -/

@[simp] theorem Quad.get_set_same {α : Type} (q : Quad α) (i : Fin 4) (x : α) :
    (q.set i x).get i = x := by
  fin_cases i <;> rfl

theorem Quad.get_set_ne {α : Type} (q : Quad α) {i j : Fin 4} (x : α) (h : j ≠ i) :
    (q.set i x).get j = q.get j := by
  fin_cases i <;> fin_cases j <;> first | rfl | exact absurd rfl h

theorem Quad.get_set {α : Type} (q : Quad α) (i j : Fin 4) (x : α) :
    (q.set i x).get j = if j = i then x else q.get j := by
  split
  · next h => rw [h, Quad.get_set_same]
  · next h => exact Quad.get_set_ne q x h

@[simp] theorem Quad.get_map {α β : Type} (f : α → β) (q : Quad α) (i : Fin 4) :
    (q.map f).get i = f (q.get i) := by
  fin_cases i <;> rfl

@[simp] theorem Quad.get_fill {α : Type} (x : α) (i : Fin 4) : (Quad.fill x).get i = x := by
  fin_cases i <;> rfl

theorem Quad.ext_get {α : Type} {p q : Quad α} (h : ∀ i, p.get i = q.get i) : p = q := by
  obtain ⟨p0, p1, p2, p3⟩ := p
  obtain ⟨q0, q1, q2, q3⟩ := q
  obtain rfl : p0 = q0 := h 0
  obtain rfl : p1 = q1 := h 1
  obtain rfl : p2 = q2 := h 2
  obtain rfl : p3 = q3 := h 3
  rfl

@[simp] theorem Quad.set_get {α : Type} (q : Quad α) (i : Fin 4) : q.set i (q.get i) = q := by
  fin_cases i <;> rfl

@[simp] theorem Oct.get_set_same {α : Type} (q : Oct α) (i : Fin 8) (x : α) :
    (q.set i x).get i = x := by
  fin_cases i <;> rfl

theorem Oct.get_set_ne {α : Type} (q : Oct α) {i j : Fin 8} (x : α) (h : j ≠ i) :
    (q.set i x).get j = q.get j := by
  fin_cases i <;> fin_cases j <;> first | rfl | exact absurd rfl h

theorem Oct.get_set {α : Type} (q : Oct α) (i j : Fin 8) (x : α) :
    (q.set i x).get j = if j = i then x else q.get j := by
  split
  · next h => rw [h, Oct.get_set_same]
  · next h => exact Oct.get_set_ne q x h

@[simp] theorem Oct.get_map {α β : Type} (f : α → β) (q : Oct α) (i : Fin 8) :
    (q.map f).get i = f (q.get i) := by
  fin_cases i <;> rfl

@[simp] theorem Oct.get_fill {α : Type} (x : α) (i : Fin 8) : (Oct.fill x).get i = x := by
  fin_cases i <;> rfl

namespace Machine

/-! ### Updates of the state: the part updated -/

theorem line_updLine (s : State) (l m : LineIx) (f : Line → Line) :
    (s.updLine l f).line m = if m = l then f (s.line l) else s.line m :=
  Quad.get_set _ _ _ _

@[simp] theorem line_updLine_same (s : State) (l : LineIx) (f : Line → Line) :
    (s.updLine l f).line l = f (s.line l) := by simp [line_updLine]

theorem service_updService (s : State) (v u : ServiceIx) (f : Service → Service) :
    (s.updService v f).service u = if u = v then f (s.service v) else s.service u :=
  Quad.get_set _ _ _ _

@[simp] theorem service_updService_same (s : State) (v : ServiceIx) (f : Service → Service) :
    (s.updService v f).service v = f (s.service v) := by simp [service_updService]

theorem input_updInput (s : State) (i j : InputIx) (f : Input → Input) :
    (s.updInput i f).input j = if j = i then f (s.input i) else s.input j :=
  Oct.get_set _ _ _ _

@[simp] theorem input_updInput_same (s : State) (i : InputIx) (f : Input → Input) :
    (s.updInput i f).input i = f (s.input i) := by simp [input_updInput]

@[simp] theorem ci_updCi (s : State) (f : Control → Control) : (s.updCi f).ci = f s.ci := rfl

/-! ### Updates of the state: every other field stays -/

@[simp] theorem resetLow_updLine (s : State) (l : LineIx) (f : Line → Line) :
    (s.updLine l f).resetLow = s.resetLow := rfl

@[simp] theorem pfn_updLine (s : State) (l : LineIx) (f : Line → Line) :
    (s.updLine l f).pfn = s.pfn := rfl

@[simp] theorem ref_updLine (s : State) (l : LineIx) (f : Line → Line) :
    (s.updLine l f).ref = s.ref := rfl

@[simp] theorem timer_updLine (s : State) (l : LineIx) (f : Line → Line) :
    (s.updLine l f).timer = s.timer := rfl

@[simp] theorem internalFrames_updLine (s : State) (l : LineIx) (f : Line → Line) :
    (s.updLine l f).internalFrames = s.internalFrames := rfl

@[simp] theorem device_updLine (s : State) (l : LineIx) (f : Line → Line) :
    (s.updLine l f).device = s.device := rfl

@[simp] theorem inputs_updLine (s : State) (l : LineIx) (f : Line → Line) :
    (s.updLine l f).inputs = s.inputs := rfl

@[simp] theorem services_updLine (s : State) (l : LineIx) (f : Line → Line) :
    (s.updLine l f).services = s.services := rfl

@[simp] theorem stories_updLine (s : State) (l : LineIx) (f : Line → Line) :
    (s.updLine l f).stories = s.stories := rfl

@[simp] theorem cues_updLine (s : State) (l : LineIx) (f : Line → Line) :
    (s.updLine l f).cues = s.cues := rfl

@[simp] theorem slotMap_updLine (s : State) (l : LineIx) (f : Line → Line) :
    (s.updLine l f).slotMap = s.slotMap := rfl

@[simp] theorem pendingMap_updLine (s : State) (l : LineIx) (f : Line → Line) :
    (s.updLine l f).pendingMap = s.pendingMap := rfl

@[simp] theorem ci_updLine (s : State) (l : LineIx) (f : Line → Line) :
    (s.updLine l f).ci = s.ci := rfl

@[simp] theorem out_updLine (s : State) (l : LineIx) (f : Line → Line) :
    (s.updLine l f).out = s.out := rfl

@[simp] theorem due_updLine (s : State) (l : LineIx) (f : Line → Line) :
    (s.updLine l f).due = s.due := rfl

@[simp] theorem draws_updLine (s : State) (l : LineIx) (f : Line → Line) :
    (s.updLine l f).draws = s.draws := rfl

@[simp] theorem pending_updLine (s : State) (l : LineIx) (f : Line → Line) :
    (s.updLine l f).pending = s.pending := rfl

@[simp] theorem resetLow_updAsm (s : State) (l : LineIx) (f : Assembler → Assembler) :
    (s.updAsm l f).resetLow = s.resetLow := rfl

@[simp] theorem pfn_updAsm (s : State) (l : LineIx) (f : Assembler → Assembler) :
    (s.updAsm l f).pfn = s.pfn := rfl

@[simp] theorem ref_updAsm (s : State) (l : LineIx) (f : Assembler → Assembler) :
    (s.updAsm l f).ref = s.ref := rfl

@[simp] theorem timer_updAsm (s : State) (l : LineIx) (f : Assembler → Assembler) :
    (s.updAsm l f).timer = s.timer := rfl

@[simp] theorem internalFrames_updAsm (s : State) (l : LineIx) (f : Assembler → Assembler) :
    (s.updAsm l f).internalFrames = s.internalFrames := rfl

@[simp] theorem device_updAsm (s : State) (l : LineIx) (f : Assembler → Assembler) :
    (s.updAsm l f).device = s.device := rfl

@[simp] theorem inputs_updAsm (s : State) (l : LineIx) (f : Assembler → Assembler) :
    (s.updAsm l f).inputs = s.inputs := rfl

@[simp] theorem services_updAsm (s : State) (l : LineIx) (f : Assembler → Assembler) :
    (s.updAsm l f).services = s.services := rfl

@[simp] theorem stories_updAsm (s : State) (l : LineIx) (f : Assembler → Assembler) :
    (s.updAsm l f).stories = s.stories := rfl

@[simp] theorem cues_updAsm (s : State) (l : LineIx) (f : Assembler → Assembler) :
    (s.updAsm l f).cues = s.cues := rfl

@[simp] theorem slotMap_updAsm (s : State) (l : LineIx) (f : Assembler → Assembler) :
    (s.updAsm l f).slotMap = s.slotMap := rfl

@[simp] theorem pendingMap_updAsm (s : State) (l : LineIx) (f : Assembler → Assembler) :
    (s.updAsm l f).pendingMap = s.pendingMap := rfl

@[simp] theorem ci_updAsm (s : State) (l : LineIx) (f : Assembler → Assembler) :
    (s.updAsm l f).ci = s.ci := rfl

@[simp] theorem out_updAsm (s : State) (l : LineIx) (f : Assembler → Assembler) :
    (s.updAsm l f).out = s.out := rfl

@[simp] theorem due_updAsm (s : State) (l : LineIx) (f : Assembler → Assembler) :
    (s.updAsm l f).due = s.due := rfl

@[simp] theorem draws_updAsm (s : State) (l : LineIx) (f : Assembler → Assembler) :
    (s.updAsm l f).draws = s.draws := rfl

@[simp] theorem pending_updAsm (s : State) (l : LineIx) (f : Assembler → Assembler) :
    (s.updAsm l f).pending = s.pending := rfl

@[simp] theorem resetLow_updLat (s : State) (l : LineIx) (f : Latency → Latency) :
    (s.updLat l f).resetLow = s.resetLow := rfl

@[simp] theorem pfn_updLat (s : State) (l : LineIx) (f : Latency → Latency) :
    (s.updLat l f).pfn = s.pfn := rfl

@[simp] theorem ref_updLat (s : State) (l : LineIx) (f : Latency → Latency) :
    (s.updLat l f).ref = s.ref := rfl

@[simp] theorem timer_updLat (s : State) (l : LineIx) (f : Latency → Latency) :
    (s.updLat l f).timer = s.timer := rfl

@[simp] theorem internalFrames_updLat (s : State) (l : LineIx) (f : Latency → Latency) :
    (s.updLat l f).internalFrames = s.internalFrames := rfl

@[simp] theorem device_updLat (s : State) (l : LineIx) (f : Latency → Latency) :
    (s.updLat l f).device = s.device := rfl

@[simp] theorem inputs_updLat (s : State) (l : LineIx) (f : Latency → Latency) :
    (s.updLat l f).inputs = s.inputs := rfl

@[simp] theorem services_updLat (s : State) (l : LineIx) (f : Latency → Latency) :
    (s.updLat l f).services = s.services := rfl

@[simp] theorem stories_updLat (s : State) (l : LineIx) (f : Latency → Latency) :
    (s.updLat l f).stories = s.stories := rfl

@[simp] theorem cues_updLat (s : State) (l : LineIx) (f : Latency → Latency) :
    (s.updLat l f).cues = s.cues := rfl

@[simp] theorem slotMap_updLat (s : State) (l : LineIx) (f : Latency → Latency) :
    (s.updLat l f).slotMap = s.slotMap := rfl

@[simp] theorem pendingMap_updLat (s : State) (l : LineIx) (f : Latency → Latency) :
    (s.updLat l f).pendingMap = s.pendingMap := rfl

@[simp] theorem ci_updLat (s : State) (l : LineIx) (f : Latency → Latency) :
    (s.updLat l f).ci = s.ci := rfl

@[simp] theorem out_updLat (s : State) (l : LineIx) (f : Latency → Latency) :
    (s.updLat l f).out = s.out := rfl

@[simp] theorem due_updLat (s : State) (l : LineIx) (f : Latency → Latency) :
    (s.updLat l f).due = s.due := rfl

@[simp] theorem draws_updLat (s : State) (l : LineIx) (f : Latency → Latency) :
    (s.updLat l f).draws = s.draws := rfl

@[simp] theorem pending_updLat (s : State) (l : LineIx) (f : Latency → Latency) :
    (s.updLat l f).pending = s.pending := rfl

@[simp] theorem resetLow_updService (s : State) (v : ServiceIx) (f : Service → Service) :
    (s.updService v f).resetLow = s.resetLow := rfl

@[simp] theorem pfn_updService (s : State) (v : ServiceIx) (f : Service → Service) :
    (s.updService v f).pfn = s.pfn := rfl

@[simp] theorem ref_updService (s : State) (v : ServiceIx) (f : Service → Service) :
    (s.updService v f).ref = s.ref := rfl

@[simp] theorem timer_updService (s : State) (v : ServiceIx) (f : Service → Service) :
    (s.updService v f).timer = s.timer := rfl

@[simp] theorem internalFrames_updService (s : State) (v : ServiceIx) (f : Service → Service) :
    (s.updService v f).internalFrames = s.internalFrames := rfl

@[simp] theorem device_updService (s : State) (v : ServiceIx) (f : Service → Service) :
    (s.updService v f).device = s.device := rfl

@[simp] theorem lines_updService (s : State) (v : ServiceIx) (f : Service → Service) :
    (s.updService v f).lines = s.lines := rfl

@[simp] theorem inputs_updService (s : State) (v : ServiceIx) (f : Service → Service) :
    (s.updService v f).inputs = s.inputs := rfl

@[simp] theorem stories_updService (s : State) (v : ServiceIx) (f : Service → Service) :
    (s.updService v f).stories = s.stories := rfl

@[simp] theorem cues_updService (s : State) (v : ServiceIx) (f : Service → Service) :
    (s.updService v f).cues = s.cues := rfl

@[simp] theorem slotMap_updService (s : State) (v : ServiceIx) (f : Service → Service) :
    (s.updService v f).slotMap = s.slotMap := rfl

@[simp] theorem pendingMap_updService (s : State) (v : ServiceIx) (f : Service → Service) :
    (s.updService v f).pendingMap = s.pendingMap := rfl

@[simp] theorem ci_updService (s : State) (v : ServiceIx) (f : Service → Service) :
    (s.updService v f).ci = s.ci := rfl

@[simp] theorem out_updService (s : State) (v : ServiceIx) (f : Service → Service) :
    (s.updService v f).out = s.out := rfl

@[simp] theorem due_updService (s : State) (v : ServiceIx) (f : Service → Service) :
    (s.updService v f).due = s.due := rfl

@[simp] theorem draws_updService (s : State) (v : ServiceIx) (f : Service → Service) :
    (s.updService v f).draws = s.draws := rfl

@[simp] theorem pending_updService (s : State) (v : ServiceIx) (f : Service → Service) :
    (s.updService v f).pending = s.pending := rfl

@[simp] theorem resetLow_updSel (s : State) (v : ServiceIx) (f : Selection → Selection) :
    (s.updSel v f).resetLow = s.resetLow := rfl

@[simp] theorem pfn_updSel (s : State) (v : ServiceIx) (f : Selection → Selection) :
    (s.updSel v f).pfn = s.pfn := rfl

@[simp] theorem ref_updSel (s : State) (v : ServiceIx) (f : Selection → Selection) :
    (s.updSel v f).ref = s.ref := rfl

@[simp] theorem timer_updSel (s : State) (v : ServiceIx) (f : Selection → Selection) :
    (s.updSel v f).timer = s.timer := rfl

@[simp] theorem internalFrames_updSel (s : State) (v : ServiceIx) (f : Selection → Selection) :
    (s.updSel v f).internalFrames = s.internalFrames := rfl

@[simp] theorem device_updSel (s : State) (v : ServiceIx) (f : Selection → Selection) :
    (s.updSel v f).device = s.device := rfl

@[simp] theorem lines_updSel (s : State) (v : ServiceIx) (f : Selection → Selection) :
    (s.updSel v f).lines = s.lines := rfl

@[simp] theorem inputs_updSel (s : State) (v : ServiceIx) (f : Selection → Selection) :
    (s.updSel v f).inputs = s.inputs := rfl

@[simp] theorem stories_updSel (s : State) (v : ServiceIx) (f : Selection → Selection) :
    (s.updSel v f).stories = s.stories := rfl

@[simp] theorem cues_updSel (s : State) (v : ServiceIx) (f : Selection → Selection) :
    (s.updSel v f).cues = s.cues := rfl

@[simp] theorem slotMap_updSel (s : State) (v : ServiceIx) (f : Selection → Selection) :
    (s.updSel v f).slotMap = s.slotMap := rfl

@[simp] theorem pendingMap_updSel (s : State) (v : ServiceIx) (f : Selection → Selection) :
    (s.updSel v f).pendingMap = s.pendingMap := rfl

@[simp] theorem ci_updSel (s : State) (v : ServiceIx) (f : Selection → Selection) :
    (s.updSel v f).ci = s.ci := rfl

@[simp] theorem out_updSel (s : State) (v : ServiceIx) (f : Selection → Selection) :
    (s.updSel v f).out = s.out := rfl

@[simp] theorem due_updSel (s : State) (v : ServiceIx) (f : Selection → Selection) :
    (s.updSel v f).due = s.due := rfl

@[simp] theorem draws_updSel (s : State) (v : ServiceIx) (f : Selection → Selection) :
    (s.updSel v f).draws = s.draws := rfl

@[simp] theorem pending_updSel (s : State) (v : ServiceIx) (f : Selection → Selection) :
    (s.updSel v f).pending = s.pending := rfl

@[simp] theorem resetLow_updOnsets (s : State) (v : ServiceIx) (f : Onsets → Onsets) :
    (s.updOnsets v f).resetLow = s.resetLow := rfl

@[simp] theorem pfn_updOnsets (s : State) (v : ServiceIx) (f : Onsets → Onsets) :
    (s.updOnsets v f).pfn = s.pfn := rfl

@[simp] theorem ref_updOnsets (s : State) (v : ServiceIx) (f : Onsets → Onsets) :
    (s.updOnsets v f).ref = s.ref := rfl

@[simp] theorem timer_updOnsets (s : State) (v : ServiceIx) (f : Onsets → Onsets) :
    (s.updOnsets v f).timer = s.timer := rfl

@[simp] theorem internalFrames_updOnsets (s : State) (v : ServiceIx) (f : Onsets → Onsets) :
    (s.updOnsets v f).internalFrames = s.internalFrames := rfl

@[simp] theorem device_updOnsets (s : State) (v : ServiceIx) (f : Onsets → Onsets) :
    (s.updOnsets v f).device = s.device := rfl

@[simp] theorem lines_updOnsets (s : State) (v : ServiceIx) (f : Onsets → Onsets) :
    (s.updOnsets v f).lines = s.lines := rfl

@[simp] theorem inputs_updOnsets (s : State) (v : ServiceIx) (f : Onsets → Onsets) :
    (s.updOnsets v f).inputs = s.inputs := rfl

@[simp] theorem stories_updOnsets (s : State) (v : ServiceIx) (f : Onsets → Onsets) :
    (s.updOnsets v f).stories = s.stories := rfl

@[simp] theorem cues_updOnsets (s : State) (v : ServiceIx) (f : Onsets → Onsets) :
    (s.updOnsets v f).cues = s.cues := rfl

@[simp] theorem slotMap_updOnsets (s : State) (v : ServiceIx) (f : Onsets → Onsets) :
    (s.updOnsets v f).slotMap = s.slotMap := rfl

@[simp] theorem pendingMap_updOnsets (s : State) (v : ServiceIx) (f : Onsets → Onsets) :
    (s.updOnsets v f).pendingMap = s.pendingMap := rfl

@[simp] theorem ci_updOnsets (s : State) (v : ServiceIx) (f : Onsets → Onsets) :
    (s.updOnsets v f).ci = s.ci := rfl

@[simp] theorem out_updOnsets (s : State) (v : ServiceIx) (f : Onsets → Onsets) :
    (s.updOnsets v f).out = s.out := rfl

@[simp] theorem due_updOnsets (s : State) (v : ServiceIx) (f : Onsets → Onsets) :
    (s.updOnsets v f).due = s.due := rfl

@[simp] theorem draws_updOnsets (s : State) (v : ServiceIx) (f : Onsets → Onsets) :
    (s.updOnsets v f).draws = s.draws := rfl

@[simp] theorem pending_updOnsets (s : State) (v : ServiceIx) (f : Onsets → Onsets) :
    (s.updOnsets v f).pending = s.pending := rfl

@[simp] theorem resetLow_updRunner (s : State) (v : ServiceIx) (f : Runner → Runner) :
    (s.updRunner v f).resetLow = s.resetLow := rfl

@[simp] theorem pfn_updRunner (s : State) (v : ServiceIx) (f : Runner → Runner) :
    (s.updRunner v f).pfn = s.pfn := rfl

@[simp] theorem ref_updRunner (s : State) (v : ServiceIx) (f : Runner → Runner) :
    (s.updRunner v f).ref = s.ref := rfl

@[simp] theorem timer_updRunner (s : State) (v : ServiceIx) (f : Runner → Runner) :
    (s.updRunner v f).timer = s.timer := rfl

@[simp] theorem internalFrames_updRunner (s : State) (v : ServiceIx) (f : Runner → Runner) :
    (s.updRunner v f).internalFrames = s.internalFrames := rfl

@[simp] theorem device_updRunner (s : State) (v : ServiceIx) (f : Runner → Runner) :
    (s.updRunner v f).device = s.device := rfl

@[simp] theorem lines_updRunner (s : State) (v : ServiceIx) (f : Runner → Runner) :
    (s.updRunner v f).lines = s.lines := rfl

@[simp] theorem inputs_updRunner (s : State) (v : ServiceIx) (f : Runner → Runner) :
    (s.updRunner v f).inputs = s.inputs := rfl

@[simp] theorem stories_updRunner (s : State) (v : ServiceIx) (f : Runner → Runner) :
    (s.updRunner v f).stories = s.stories := rfl

@[simp] theorem cues_updRunner (s : State) (v : ServiceIx) (f : Runner → Runner) :
    (s.updRunner v f).cues = s.cues := rfl

@[simp] theorem slotMap_updRunner (s : State) (v : ServiceIx) (f : Runner → Runner) :
    (s.updRunner v f).slotMap = s.slotMap := rfl

@[simp] theorem pendingMap_updRunner (s : State) (v : ServiceIx) (f : Runner → Runner) :
    (s.updRunner v f).pendingMap = s.pendingMap := rfl

@[simp] theorem ci_updRunner (s : State) (v : ServiceIx) (f : Runner → Runner) :
    (s.updRunner v f).ci = s.ci := rfl

@[simp] theorem out_updRunner (s : State) (v : ServiceIx) (f : Runner → Runner) :
    (s.updRunner v f).out = s.out := rfl

@[simp] theorem due_updRunner (s : State) (v : ServiceIx) (f : Runner → Runner) :
    (s.updRunner v f).due = s.due := rfl

@[simp] theorem draws_updRunner (s : State) (v : ServiceIx) (f : Runner → Runner) :
    (s.updRunner v f).draws = s.draws := rfl

@[simp] theorem pending_updRunner (s : State) (v : ServiceIx) (f : Runner → Runner) :
    (s.updRunner v f).pending = s.pending := rfl

@[simp] theorem resetLow_updSched (s : State) (v : ServiceIx) (f : Scheduler → Scheduler) :
    (s.updSched v f).resetLow = s.resetLow := rfl

@[simp] theorem pfn_updSched (s : State) (v : ServiceIx) (f : Scheduler → Scheduler) :
    (s.updSched v f).pfn = s.pfn := rfl

@[simp] theorem ref_updSched (s : State) (v : ServiceIx) (f : Scheduler → Scheduler) :
    (s.updSched v f).ref = s.ref := rfl

@[simp] theorem timer_updSched (s : State) (v : ServiceIx) (f : Scheduler → Scheduler) :
    (s.updSched v f).timer = s.timer := rfl

@[simp] theorem internalFrames_updSched (s : State) (v : ServiceIx) (f : Scheduler → Scheduler) :
    (s.updSched v f).internalFrames = s.internalFrames := rfl

@[simp] theorem device_updSched (s : State) (v : ServiceIx) (f : Scheduler → Scheduler) :
    (s.updSched v f).device = s.device := rfl

@[simp] theorem lines_updSched (s : State) (v : ServiceIx) (f : Scheduler → Scheduler) :
    (s.updSched v f).lines = s.lines := rfl

@[simp] theorem inputs_updSched (s : State) (v : ServiceIx) (f : Scheduler → Scheduler) :
    (s.updSched v f).inputs = s.inputs := rfl

@[simp] theorem stories_updSched (s : State) (v : ServiceIx) (f : Scheduler → Scheduler) :
    (s.updSched v f).stories = s.stories := rfl

@[simp] theorem cues_updSched (s : State) (v : ServiceIx) (f : Scheduler → Scheduler) :
    (s.updSched v f).cues = s.cues := rfl

@[simp] theorem slotMap_updSched (s : State) (v : ServiceIx) (f : Scheduler → Scheduler) :
    (s.updSched v f).slotMap = s.slotMap := rfl

@[simp] theorem pendingMap_updSched (s : State) (v : ServiceIx) (f : Scheduler → Scheduler) :
    (s.updSched v f).pendingMap = s.pendingMap := rfl

@[simp] theorem ci_updSched (s : State) (v : ServiceIx) (f : Scheduler → Scheduler) :
    (s.updSched v f).ci = s.ci := rfl

@[simp] theorem out_updSched (s : State) (v : ServiceIx) (f : Scheduler → Scheduler) :
    (s.updSched v f).out = s.out := rfl

@[simp] theorem due_updSched (s : State) (v : ServiceIx) (f : Scheduler → Scheduler) :
    (s.updSched v f).due = s.due := rfl

@[simp] theorem draws_updSched (s : State) (v : ServiceIx) (f : Scheduler → Scheduler) :
    (s.updSched v f).draws = s.draws := rfl

@[simp] theorem pending_updSched (s : State) (v : ServiceIx) (f : Scheduler → Scheduler) :
    (s.updSched v f).pending = s.pending := rfl

/-- Two updates of one builder are one. -/
@[simp] theorem updCb_updCb (s : State) (v : ServiceIx) (f g : Builder → Builder) :
    (s.updCb v f).updCb v g = s.updCb v fun c => g (f c) := by
  simp only [State.updCb, State.updService]; congr 1; fin_cases v <;> rfl

@[simp] theorem resetLow_updCb (s : State) (v : ServiceIx) (f : Builder → Builder) :
    (s.updCb v f).resetLow = s.resetLow := rfl

@[simp] theorem pfn_updCb (s : State) (v : ServiceIx) (f : Builder → Builder) :
    (s.updCb v f).pfn = s.pfn := rfl

@[simp] theorem ref_updCb (s : State) (v : ServiceIx) (f : Builder → Builder) :
    (s.updCb v f).ref = s.ref := rfl

@[simp] theorem timer_updCb (s : State) (v : ServiceIx) (f : Builder → Builder) :
    (s.updCb v f).timer = s.timer := rfl

@[simp] theorem internalFrames_updCb (s : State) (v : ServiceIx) (f : Builder → Builder) :
    (s.updCb v f).internalFrames = s.internalFrames := rfl

@[simp] theorem device_updCb (s : State) (v : ServiceIx) (f : Builder → Builder) :
    (s.updCb v f).device = s.device := rfl

@[simp] theorem lines_updCb (s : State) (v : ServiceIx) (f : Builder → Builder) :
    (s.updCb v f).lines = s.lines := rfl

@[simp] theorem inputs_updCb (s : State) (v : ServiceIx) (f : Builder → Builder) :
    (s.updCb v f).inputs = s.inputs := rfl

@[simp] theorem stories_updCb (s : State) (v : ServiceIx) (f : Builder → Builder) :
    (s.updCb v f).stories = s.stories := rfl

@[simp] theorem cues_updCb (s : State) (v : ServiceIx) (f : Builder → Builder) :
    (s.updCb v f).cues = s.cues := rfl

@[simp] theorem slotMap_updCb (s : State) (v : ServiceIx) (f : Builder → Builder) :
    (s.updCb v f).slotMap = s.slotMap := rfl

@[simp] theorem pendingMap_updCb (s : State) (v : ServiceIx) (f : Builder → Builder) :
    (s.updCb v f).pendingMap = s.pendingMap := rfl

@[simp] theorem ci_updCb (s : State) (v : ServiceIx) (f : Builder → Builder) :
    (s.updCb v f).ci = s.ci := rfl

@[simp] theorem out_updCb (s : State) (v : ServiceIx) (f : Builder → Builder) :
    (s.updCb v f).out = s.out := rfl

@[simp] theorem due_updCb (s : State) (v : ServiceIx) (f : Builder → Builder) :
    (s.updCb v f).due = s.due := rfl

@[simp] theorem draws_updCb (s : State) (v : ServiceIx) (f : Builder → Builder) :
    (s.updCb v f).draws = s.draws := rfl

@[simp] theorem pending_updCb (s : State) (v : ServiceIx) (f : Builder → Builder) :
    (s.updCb v f).pending = s.pending := rfl

@[simp] theorem resetLow_updOm (s : State) (v : ServiceIx) (f : Carriage → Carriage) :
    (s.updOm v f).resetLow = s.resetLow := rfl

@[simp] theorem pfn_updOm (s : State) (v : ServiceIx) (f : Carriage → Carriage) :
    (s.updOm v f).pfn = s.pfn := rfl

@[simp] theorem ref_updOm (s : State) (v : ServiceIx) (f : Carriage → Carriage) :
    (s.updOm v f).ref = s.ref := rfl

@[simp] theorem timer_updOm (s : State) (v : ServiceIx) (f : Carriage → Carriage) :
    (s.updOm v f).timer = s.timer := rfl

@[simp] theorem internalFrames_updOm (s : State) (v : ServiceIx) (f : Carriage → Carriage) :
    (s.updOm v f).internalFrames = s.internalFrames := rfl

@[simp] theorem device_updOm (s : State) (v : ServiceIx) (f : Carriage → Carriage) :
    (s.updOm v f).device = s.device := rfl

@[simp] theorem lines_updOm (s : State) (v : ServiceIx) (f : Carriage → Carriage) :
    (s.updOm v f).lines = s.lines := rfl

@[simp] theorem inputs_updOm (s : State) (v : ServiceIx) (f : Carriage → Carriage) :
    (s.updOm v f).inputs = s.inputs := rfl

@[simp] theorem stories_updOm (s : State) (v : ServiceIx) (f : Carriage → Carriage) :
    (s.updOm v f).stories = s.stories := rfl

@[simp] theorem cues_updOm (s : State) (v : ServiceIx) (f : Carriage → Carriage) :
    (s.updOm v f).cues = s.cues := rfl

@[simp] theorem slotMap_updOm (s : State) (v : ServiceIx) (f : Carriage → Carriage) :
    (s.updOm v f).slotMap = s.slotMap := rfl

@[simp] theorem pendingMap_updOm (s : State) (v : ServiceIx) (f : Carriage → Carriage) :
    (s.updOm v f).pendingMap = s.pendingMap := rfl

@[simp] theorem ci_updOm (s : State) (v : ServiceIx) (f : Carriage → Carriage) :
    (s.updOm v f).ci = s.ci := rfl

@[simp] theorem out_updOm (s : State) (v : ServiceIx) (f : Carriage → Carriage) :
    (s.updOm v f).out = s.out := rfl

@[simp] theorem due_updOm (s : State) (v : ServiceIx) (f : Carriage → Carriage) :
    (s.updOm v f).due = s.due := rfl

@[simp] theorem draws_updOm (s : State) (v : ServiceIx) (f : Carriage → Carriage) :
    (s.updOm v f).draws = s.draws := rfl

@[simp] theorem pending_updOm (s : State) (v : ServiceIx) (f : Carriage → Carriage) :
    (s.updOm v f).pending = s.pending := rfl

@[simp] theorem resetLow_updInput (s : State) (i : InputIx) (f : Input → Input) :
    (s.updInput i f).resetLow = s.resetLow := rfl

@[simp] theorem pfn_updInput (s : State) (i : InputIx) (f : Input → Input) :
    (s.updInput i f).pfn = s.pfn := rfl

@[simp] theorem ref_updInput (s : State) (i : InputIx) (f : Input → Input) :
    (s.updInput i f).ref = s.ref := rfl

@[simp] theorem timer_updInput (s : State) (i : InputIx) (f : Input → Input) :
    (s.updInput i f).timer = s.timer := rfl

@[simp] theorem internalFrames_updInput (s : State) (i : InputIx) (f : Input → Input) :
    (s.updInput i f).internalFrames = s.internalFrames := rfl

@[simp] theorem device_updInput (s : State) (i : InputIx) (f : Input → Input) :
    (s.updInput i f).device = s.device := rfl

@[simp] theorem lines_updInput (s : State) (i : InputIx) (f : Input → Input) :
    (s.updInput i f).lines = s.lines := rfl

@[simp] theorem services_updInput (s : State) (i : InputIx) (f : Input → Input) :
    (s.updInput i f).services = s.services := rfl

@[simp] theorem stories_updInput (s : State) (i : InputIx) (f : Input → Input) :
    (s.updInput i f).stories = s.stories := rfl

@[simp] theorem cues_updInput (s : State) (i : InputIx) (f : Input → Input) :
    (s.updInput i f).cues = s.cues := rfl

@[simp] theorem slotMap_updInput (s : State) (i : InputIx) (f : Input → Input) :
    (s.updInput i f).slotMap = s.slotMap := rfl

@[simp] theorem pendingMap_updInput (s : State) (i : InputIx) (f : Input → Input) :
    (s.updInput i f).pendingMap = s.pendingMap := rfl

@[simp] theorem ci_updInput (s : State) (i : InputIx) (f : Input → Input) :
    (s.updInput i f).ci = s.ci := rfl

@[simp] theorem out_updInput (s : State) (i : InputIx) (f : Input → Input) :
    (s.updInput i f).out = s.out := rfl

@[simp] theorem due_updInput (s : State) (i : InputIx) (f : Input → Input) :
    (s.updInput i f).due = s.due := rfl

@[simp] theorem draws_updInput (s : State) (i : InputIx) (f : Input → Input) :
    (s.updInput i f).draws = s.draws := rfl

@[simp] theorem pending_updInput (s : State) (i : InputIx) (f : Input → Input) :
    (s.updInput i f).pending = s.pending := rfl

@[simp] theorem resetLow_updCi (s : State) (f : Control → Control) :
    (s.updCi f).resetLow = s.resetLow := rfl

@[simp] theorem pfn_updCi (s : State) (f : Control → Control) :
    (s.updCi f).pfn = s.pfn := rfl

@[simp] theorem ref_updCi (s : State) (f : Control → Control) :
    (s.updCi f).ref = s.ref := rfl

@[simp] theorem timer_updCi (s : State) (f : Control → Control) :
    (s.updCi f).timer = s.timer := rfl

@[simp] theorem internalFrames_updCi (s : State) (f : Control → Control) :
    (s.updCi f).internalFrames = s.internalFrames := rfl

@[simp] theorem device_updCi (s : State) (f : Control → Control) :
    (s.updCi f).device = s.device := rfl

@[simp] theorem lines_updCi (s : State) (f : Control → Control) :
    (s.updCi f).lines = s.lines := rfl

@[simp] theorem inputs_updCi (s : State) (f : Control → Control) :
    (s.updCi f).inputs = s.inputs := rfl

@[simp] theorem services_updCi (s : State) (f : Control → Control) :
    (s.updCi f).services = s.services := rfl

@[simp] theorem stories_updCi (s : State) (f : Control → Control) :
    (s.updCi f).stories = s.stories := rfl

@[simp] theorem cues_updCi (s : State) (f : Control → Control) :
    (s.updCi f).cues = s.cues := rfl

@[simp] theorem slotMap_updCi (s : State) (f : Control → Control) :
    (s.updCi f).slotMap = s.slotMap := rfl

@[simp] theorem pendingMap_updCi (s : State) (f : Control → Control) :
    (s.updCi f).pendingMap = s.pendingMap := rfl

@[simp] theorem out_updCi (s : State) (f : Control → Control) :
    (s.updCi f).out = s.out := rfl

@[simp] theorem due_updCi (s : State) (f : Control → Control) :
    (s.updCi f).due = s.due := rfl

@[simp] theorem draws_updCi (s : State) (f : Control → Control) :
    (s.updCi f).draws = s.draws := rfl

@[simp] theorem pending_updCi (s : State) (f : Control → Control) :
    (s.updCi f).pending = s.pending := rfl

@[simp] theorem service_updLine (s : State) (l : LineIx) (f : Line → Line) (u : ServiceIx) :
    (s.updLine l f).service u = s.service u := rfl

@[simp] theorem input_updLine (s : State) (l : LineIx) (f : Line → Line) (j : InputIx) :
    (s.updLine l f).input j = s.input j := rfl

@[simp] theorem service_updAsm (s : State) (l : LineIx) (f : Assembler → Assembler) (u : ServiceIx) :
    (s.updAsm l f).service u = s.service u := rfl

@[simp] theorem input_updAsm (s : State) (l : LineIx) (f : Assembler → Assembler) (j : InputIx) :
    (s.updAsm l f).input j = s.input j := rfl

@[simp] theorem service_updLat (s : State) (l : LineIx) (f : Latency → Latency) (u : ServiceIx) :
    (s.updLat l f).service u = s.service u := rfl

@[simp] theorem input_updLat (s : State) (l : LineIx) (f : Latency → Latency) (j : InputIx) :
    (s.updLat l f).input j = s.input j := rfl

@[simp] theorem line_updService (s : State) (v : ServiceIx) (f : Service → Service) (m : LineIx) :
    (s.updService v f).line m = s.line m := rfl

@[simp] theorem input_updService (s : State) (v : ServiceIx) (f : Service → Service) (j : InputIx) :
    (s.updService v f).input j = s.input j := rfl

@[simp] theorem line_updSel (s : State) (v : ServiceIx) (f : Selection → Selection) (m : LineIx) :
    (s.updSel v f).line m = s.line m := rfl

@[simp] theorem input_updSel (s : State) (v : ServiceIx) (f : Selection → Selection) (j : InputIx) :
    (s.updSel v f).input j = s.input j := rfl

@[simp] theorem line_updOnsets (s : State) (v : ServiceIx) (f : Onsets → Onsets) (m : LineIx) :
    (s.updOnsets v f).line m = s.line m := rfl

@[simp] theorem input_updOnsets (s : State) (v : ServiceIx) (f : Onsets → Onsets) (j : InputIx) :
    (s.updOnsets v f).input j = s.input j := rfl

@[simp] theorem line_updRunner (s : State) (v : ServiceIx) (f : Runner → Runner) (m : LineIx) :
    (s.updRunner v f).line m = s.line m := rfl

@[simp] theorem input_updRunner (s : State) (v : ServiceIx) (f : Runner → Runner) (j : InputIx) :
    (s.updRunner v f).input j = s.input j := rfl

@[simp] theorem line_updSched (s : State) (v : ServiceIx) (f : Scheduler → Scheduler) (m : LineIx) :
    (s.updSched v f).line m = s.line m := rfl

@[simp] theorem input_updSched (s : State) (v : ServiceIx) (f : Scheduler → Scheduler) (j : InputIx) :
    (s.updSched v f).input j = s.input j := rfl

@[simp] theorem line_updCb (s : State) (v : ServiceIx) (f : Builder → Builder) (m : LineIx) :
    (s.updCb v f).line m = s.line m := rfl

@[simp] theorem input_updCb (s : State) (v : ServiceIx) (f : Builder → Builder) (j : InputIx) :
    (s.updCb v f).input j = s.input j := rfl

@[simp] theorem line_updOm (s : State) (v : ServiceIx) (f : Carriage → Carriage) (m : LineIx) :
    (s.updOm v f).line m = s.line m := rfl

@[simp] theorem input_updOm (s : State) (v : ServiceIx) (f : Carriage → Carriage) (j : InputIx) :
    (s.updOm v f).input j = s.input j := rfl

@[simp] theorem line_updInput (s : State) (i : InputIx) (f : Input → Input) (m : LineIx) :
    (s.updInput i f).line m = s.line m := rfl

@[simp] theorem service_updInput (s : State) (i : InputIx) (f : Input → Input) (u : ServiceIx) :
    (s.updInput i f).service u = s.service u := rfl

@[simp] theorem line_updCi (s : State) (f : Control → Control) (m : LineIx) :
    (s.updCi f).line m = s.line m := rfl

@[simp] theorem service_updCi (s : State) (f : Control → Control) (u : ServiceIx) :
    (s.updCi f).service u = s.service u := rfl

@[simp] theorem input_updCi (s : State) (f : Control → Control) (j : InputIx) :
    (s.updCi f).input j = s.input j := rfl

/-! ### The parts of a line and of a service under an update of one of them -/

theorem line_updAsm (s : State) (l m : LineIx) (f : Assembler → Assembler) :
    (s.updAsm l f).line m = if m = l then { s.line l with asm := f (s.line l).asm } else s.line m :=
  line_updLine _ _ _ _

@[simp] theorem line_updAsm_same (s : State) (l : LineIx) (f : Assembler → Assembler) :
    (s.updAsm l f).line l = { s.line l with asm := f (s.line l).asm } := line_updLine_same _ _ _

theorem line_updLat (s : State) (l m : LineIx) (f : Latency → Latency) :
    (s.updLat l f).line m = if m = l then { s.line l with lat := f (s.line l).lat } else s.line m :=
  line_updLine _ _ _ _

@[simp] theorem line_updLat_same (s : State) (l : LineIx) (f : Latency → Latency) :
    (s.updLat l f).line l = { s.line l with lat := f (s.line l).lat } := line_updLine_same _ _ _

theorem service_updSel (s : State) (v u : ServiceIx) (f : Selection → Selection) :
    (s.updSel v f).service u =
      if u = v then { s.service v with sel := f (s.service v).sel } else s.service u :=
  service_updService _ _ _ _

@[simp] theorem service_updSel_same (s : State) (v : ServiceIx) (f : Selection → Selection) :
    (s.updSel v f).service v = { s.service v with sel := f (s.service v).sel } :=
  service_updService_same _ _ _

theorem service_updOnsets (s : State) (v u : ServiceIx) (f : Onsets → Onsets) :
    (s.updOnsets v f).service u =
      if u = v then { s.service v with onsets := f (s.service v).onsets } else s.service u :=
  service_updService _ _ _ _

@[simp] theorem service_updOnsets_same (s : State) (v : ServiceIx) (f : Onsets → Onsets) :
    (s.updOnsets v f).service v = { s.service v with onsets := f (s.service v).onsets } :=
  service_updService_same _ _ _

theorem service_updRunner (s : State) (v u : ServiceIx) (f : Runner → Runner) :
    (s.updRunner v f).service u =
      if u = v then { s.service v with runner := f (s.service v).runner } else s.service u :=
  service_updService _ _ _ _

@[simp] theorem service_updRunner_same (s : State) (v : ServiceIx) (f : Runner → Runner) :
    (s.updRunner v f).service v = { s.service v with runner := f (s.service v).runner } :=
  service_updService_same _ _ _

theorem service_updSched (s : State) (v u : ServiceIx) (f : Scheduler → Scheduler) :
    (s.updSched v f).service u =
      if u = v then { s.service v with sched := f (s.service v).sched } else s.service u :=
  service_updService _ _ _ _

@[simp] theorem service_updSched_same (s : State) (v : ServiceIx) (f : Scheduler → Scheduler) :
    (s.updSched v f).service v = { s.service v with sched := f (s.service v).sched } :=
  service_updService_same _ _ _

theorem service_updCb (s : State) (v u : ServiceIx) (f : Builder → Builder) :
    (s.updCb v f).service u =
      if u = v then { s.service v with cb := f (s.service v).cb } else s.service u :=
  service_updService _ _ _ _

@[simp] theorem service_updCb_same (s : State) (v : ServiceIx) (f : Builder → Builder) :
    (s.updCb v f).service v = { s.service v with cb := f (s.service v).cb } :=
  service_updService_same _ _ _

theorem service_updOm (s : State) (v u : ServiceIx) (f : Carriage → Carriage) :
    (s.updOm v f).service u =
      if u = v then { s.service v with om := f (s.service v).om } else s.service u :=
  service_updService _ _ _ _

@[simp] theorem service_updOm_same (s : State) (v : ServiceIx) (f : Carriage → Carriage) :
    (s.updOm v f).service v = { s.service v with om := f (s.service v).om } :=
  service_updService_same _ _ _

end Machine

end Sys2Proof
end

