-- ==== Sys2Proof/Laws/Frames.lean ====
section
/-! SUPPORT. What reactions and frame-start work leave alone: the settings of the device. -/

namespace Sys2Proof.Machine

/-! ### Updates that keep the settings -/

theorem map_set_of_eq {α β : Type} (q : Quad α) (i : Fin 4) (x : α) (g : α → β)
    (h : g x = g (q.get i)) : (q.set i x).map g = q.map g := by
  apply Quad.ext_get
  intro j
  rw [Quad.get_map, Quad.get_map, Quad.get_set]
  split
  · next e => rw [h, e]
  · rfl

theorem settings_updLine {s : State} {l : LineIx} {f : Line → Line}
    (h : (f (s.line l)).record = (s.line l).record) : (s.updLine l f).settings = s.settings := by
  have e : (s.updLine l f).lines.map Line.record = s.lines.map Line.record :=
    map_set_of_eq _ _ _ _ h
  simp [State.settings, e]

theorem settings_updService {s : State} {v : ServiceIx} {f : Service → Service}
    (h : (f (s.service v)).record = (s.service v).record) :
    (s.updService v f).settings = s.settings := by
  have e : (s.updService v f).services.map Service.record = s.services.map Service.record :=
    map_set_of_eq _ _ _ _ h
  simp [State.settings, e]

@[simp] theorem settings_updAsm (s : State) (l : LineIx) (f : Assembler → Assembler) :
    (s.updAsm l f).settings = s.settings := settings_updLine rfl

@[simp] theorem settings_updLat (s : State) (l : LineIx) (f : Latency → Latency) :
    (s.updLat l f).settings = s.settings := settings_updLine rfl

@[simp] theorem settings_updSel (s : State) (v : ServiceIx) (f : Selection → Selection) :
    (s.updSel v f).settings = s.settings := settings_updService rfl

@[simp] theorem settings_updOnsets (s : State) (v : ServiceIx) (f : Onsets → Onsets) :
    (s.updOnsets v f).settings = s.settings := settings_updService rfl

@[simp] theorem settings_updRunner (s : State) (v : ServiceIx) (f : Runner → Runner) :
    (s.updRunner v f).settings = s.settings := settings_updService rfl

@[simp] theorem settings_updSched (s : State) (v : ServiceIx) (f : Scheduler → Scheduler) :
    (s.updSched v f).settings = s.settings := settings_updService rfl

@[simp] theorem settings_updCb (s : State) (v : ServiceIx) (f : Builder → Builder) :
    (s.updCb v f).settings = s.settings := settings_updService rfl

@[simp] theorem settings_updOm (s : State) (v : ServiceIx) (f : Carriage → Carriage) :
    (s.updOm v f).settings = s.settings := settings_updService rfl

@[simp] theorem settings_updCi (s : State) (f : Control → Control) :
    (s.updCi f).settings = s.settings := rfl

@[simp] theorem settings_raise (s : State) (n : Notice) : (raise n s).settings = s.settings := rfl

theorem settings_lines {s : State} {f : Line → Line} (h : ∀ x, (f x).record = x.record) :
    ({ s with lines := s.lines.map f } : State).settings = s.settings := by
  simp [State.settings, Quad.map, h]

/-! ### Operations -/

@[simp] theorem settings_departed (v : ServiceIx) (t : Frame) (s : State) :
    (departed v t s).settings = s.settings := by
  rw [departed, settings_lines, settings_updSched]
  intro x
  rw [oweRetry]
  repeat' split
  all_goals rfl

@[simp] theorem settings_dropHead (v : ServiceIx) (e : Entry) (s : State) :
    (dropHead v e s).settings = s.settings := by simp [dropHead]

@[simp] theorem settings_dropTail (v : ServiceIx) (e : Entry) (s : State) :
    (dropTail v e s).settings = s.settings := by simp [dropTail]

@[simp] theorem settings_offer (v : ServiceIx) (b : EntryBody) (f : Option Frame) (s : State) :
    (offer v b f s).2.settings = s.settings := by
  rw [offer]; split <;> simp

@[simp] theorem settings_pairOnset (l : LineIx) (v : ServiceIx) (a : Frame) (s : State) :
    (pairOnset l v a s).settings = s.settings := by
  simp only [pairOnset]; repeat' split
  all_goals simp

@[simp] theorem settings_pairIfMarked (l : LineIx) (v : ServiceIx) (a : Frame) (s : State) :
    (pairIfMarked l v a s).settings = s.settings := by
  rw [pairIfMarked]; split <;> simp

@[simp] theorem settings_testFirstWord (l : LineIx) (w : WordRecord) (r : Bool) (s : State) :
    (testFirstWord l w r s).settings = s.settings := by simp [testFirstWord]

@[simp] theorem settings_clearMark (l : LineIx) (s : State) :
    (clearMark l s).settings = s.settings := by simp [clearMark]

@[simp] theorem settings_appendUnits (v : ServiceIx) (us : List OutUnit) (s : State) :
    (appendUnits v us s).settings = s.settings := by simp [appendUnits]

theorem settings_appendHead {v : ServiceIx} {s t : State} (h : appendHead v s = some t) :
    t.settings = s.settings := by
  simp only [appendHead] at h
  repeat' split at h
  all_goals simp at h
  all_goals subst h; simp

@[simp] theorem settings_appendBlocks (v : ServiceIx) (n : Nat) (s : State) :
    (appendBlocks v n s).settings = s.settings := by
  induction n generalizing s with
  | zero => rfl
  | succ n ih =>
    rw [appendBlocks]
    split
    · rfl
    · next h => rw [ih, settings_appendHead h]

@[simp] theorem settings_attemptAppend (v : ServiceIx) (s : State) :
    (attemptAppend v s).settings = s.settings := by simp [attemptAppend]

@[simp] theorem settings_joinBlock (v : ServiceIx) (b : Block) (s : State) :
    (joinBlock v b s).settings = s.settings := by simp [joinBlock]

@[simp] theorem settings_closeNow (v : ServiceIx) (c : CloseCause) (f : Option Frame) (s : State) :
    (closeNow v c f s).settings = s.settings := by
  simp only [closeNow]; split <;> simp

@[simp] theorem settings_closeOpen (v : ServiceIx) (c : CloseCause) (s : State) :
    (closeOpen v c s).settings = s.settings := by
  simp only [closeOpen]; repeat' split
  all_goals simp

@[simp] theorem settings_updOpen (v : ServiceIx) (f : OpenBlock → OpenBlock) (s : State) :
    (updOpen v f s).settings = s.settings := by simp [updOpen]

@[simp] theorem settings_placePieces (v : ServiceIx) (w : WordRecord) (t : Frame) (ps : List Row)
    (a b : Bool) (s : State) : (placePieces v w t ps a b s).settings = s.settings := by
  induction ps generalizing a b s with
  | nil => rw [placePieces]; split <;> simp
  | cons p ps ih =>
    simp only [placePieces]; repeat' split
    all_goals simp [ih]

@[simp] theorem settings_placeWord (v : ServiceIx) (w : WordRecord) (t : Frame) (s : State) :
    (placeWord v w t s).settings = s.settings := by
  simp only [placeWord]; repeat' split
  all_goals simp

@[simp] theorem settings_markExpiring (v : ServiceIx) (s : State) :
    (markExpiring v s).settings = s.settings := by simp [markExpiring]

@[simp] theorem settings_takeWord (v : ServiceIx) (w : WordRecord) (t : Frame) (s : State) :
    (takeWord v w t s).settings = s.settings := by
  simp only [takeWord]; repeat' split
  all_goals simp

@[simp] theorem settings_takeClear (v : ServiceIx) (t : Frame) (s : State) :
    (takeClear v t s).settings = s.settings := by
  simp only [takeClear]; repeat' split
  all_goals simp

@[simp] theorem settings_takeCue (v : ServiceIx) (a b : Nat) (x : List Byte) (t : Frame) (s : State) :
    (takeCue v a b x t s).settings = s.settings := by simp [takeCue]

theorem settings_carryOutClosing {v : ServiceIx} {s t : State} (h : carryOutClosing v s = some t) :
    t.settings = s.settings := by
  simp only [carryOutClosing] at h
  repeat' split at h
  all_goals simp at h
  all_goals subst h; simp

theorem settings_formBlock {v : ServiceIx} {s t : State} (h : formBlock v s = some t) :
    t.settings = s.settings := by
  simp only [formBlock] at h
  repeat' split at h
  all_goals simp at h
  all_goals subst h; simp

theorem settings_takeHead {v : ServiceIx} {s t : State} (h : takeHead v s = some t) :
    t.settings = s.settings := by
  simp only [takeHead] at h
  repeat' split at h
  all_goals simp at h
  all_goals subst h; simp

@[simp] theorem settings_checkHold (v : ServiceIx) (s : State) :
    (checkHold v s).settings = s.settings := by
  simp only [checkHold]; repeat' split
  all_goals simp

@[simp] theorem settings_checkStale (v : ServiceIx) (s : State) :
    (checkStale v s).settings = s.settings := by
  simp only [checkStale]; split <;> simp

@[simp] theorem settings_checkDmax (v : ServiceIx) (s : State) :
    (checkDmax v s).settings = s.settings := by
  simp only [checkDmax]; repeat' split
  all_goals simp

@[simp] theorem settings_showLeft (v : ServiceIx) (f n : Frame) (last : Bool) (s : State) :
    (showLeft v f n last s).settings = s.settings := by simp [showLeft]

@[simp] theorem settings_clearService (v : ServiceIx) (s : State) :
    (clearService v s).settings = s.settings := by simp [clearService]

@[simp] theorem settings_beginMute (v : ServiceIx) (s : State) :
    (beginMute v s).settings = s.settings := by rw [beginMute]; split <;> simp

@[simp] theorem settings_endMute (v : ServiceIx) (s : State) :
    (endMute v s).settings = s.settings := by simp [endMute]

/-! ### Runners and modes -/

@[simp] theorem settings_setMode (v : ServiceIx) (m : Mode) (s : State) :
    (setMode v m s).settings = s.settings := by
  simp only [setMode]; repeat' split
  all_goals simp

@[simp] theorem settings_noteEnd (v : ServiceIx) (k : Nat) (st : Story) (s : State) :
    (noteEnd v k st s).settings = s.settings := by rw [noteEnd]; split <;> simp

@[simp] theorem settings_chainTo (v : ServiceIx) (k : Nat) (st : Story) (n : Nat) (s : State) :
    (chainTo v k st n s).settings = s.settings := by
  simp only [chainTo]; repeat' split
  all_goals simp

@[simp] theorem settings_endStory (v : ServiceIx) (k : Nat) (st : Story) (s : State) :
    (endStory v k st s).settings = s.settings := by
  simp only [endStory]; repeat' split
  all_goals simp

/-- An offer changes the services and nothing else. -/
theorem offer_frame (v : ServiceIx) (b : EntryBody) (f : Option Frame) (s : State) :
    (offer v b f s).2 = { s with services := (offer v b f s).2.services } := by
  simp only [offer]; split <;> rfl

/-- Issuing a cue changes the services and the control interpreter and nothing else. -/
theorem issueCue_frame {v : ServiceIx} {a : Frame} {s t : State} (h : issueCue v a s = some t) :
    t = { s with services := t.services, ci := t.ci } := by
  simp only [issueCue] at h
  repeat' split at h
  all_goals simp at h
  all_goals subst h
  all_goals rw [offer_frame]
  · simp only [endStory, chainTo, setMode, noteEnd]
    repeat' split
    all_goals rfl
  · rfl

theorem settings_issueCue {v : ServiceIx} {a : Frame} {s t : State} (h : issueCue v a s = some t) :
    t.settings = s.settings := by
  simp only [issueCue] at h
  repeat' split at h
  all_goals simp at h
  all_goals subst h; simp

@[simp] theorem settings_cueRefused (v : ServiceIx) (s : State) :
    (cueRefused v s).settings = s.settings := by rw [cueRefused]; split <;> simp

@[simp] theorem settings_trigger (v : ServiceIx) (a : Frame) (s : State) :
    (trigger v a s).settings = s.settings := by
  simp only [trigger]; repeat' split
  · next h => exact settings_issueCue h
  all_goals simp

@[simp] theorem settings_checkTimed (v : ServiceIx) (s : State) :
    (checkTimed v s).settings = s.settings := by
  simp only [checkTimed]; repeat' split
  all_goals first
    | rfl
    | next h => exact settings_issueCue h
    | simp

@[simp] theorem settings_removeCues (v : ServiceIx) (k : Nat) (s : State) :
    (removeCues v k s).settings = s.settings := by
  simp only [removeCues]; split <;> simp

@[simp] theorem settings_removeBlocks (v : ServiceIx) (k : Nat) (s : State) :
    (removeBlocks v k s).settings = s.settings := by simp [removeBlocks]

@[simp] theorem settings_drainCheck (v : ServiceIx) (s : State) :
    (drainCheck v s).settings = s.settings := by
  simp only [drainCheck]; repeat' split
  all_goals simp

@[simp] theorem settings_startDrain (v : ServiceIx) (k : Nat) (s : State) :
    (startDrain v k s).settings = s.settings := by simp [startDrain]

/-! ### Assemblers and the decoder -/

@[simp] theorem settings_unrouted (l : LineIx) (s : State) :
    (unrouted l s).settings = s.settings := by simp [unrouted]

@[simp] theorem settings_holdItem (l : LineIx) (i : HeldItem) (v : ServiceIx) (s : State) :
    (holdItem l i v s).settings = s.settings := by simp [holdItem]

@[simp] theorem settings_routeWord (l : LineIx) (w : WordRecord) (s : State) :
    (routeWord l w s).settings = s.settings := by
  simp only [routeWord]; repeat' split
  all_goals simp

@[simp] theorem settings_routeMarker (l : LineIx) (a : Frame) (s : State) :
    (routeMarker l a s).settings = s.settings := by
  simp only [routeMarker]; repeat' split
  all_goals simp

@[simp] theorem settings_completeWord (l : LineIx) (b : Bool) (s : State) :
    (completeWord l b s).settings = s.settings := by simp [completeWord]

@[simp] theorem settings_flushWord (l : LineIx) (s : State) :
    (flushWord l s).settings = s.settings := by rw [flushWord]; split <;> simp

@[simp] theorem settings_endHoldByGlyph (l : LineIx) (s : State) :
    (endHoldByGlyph l s).settings = s.settings := by rw [endHoldByGlyph]; split <;> simp

@[simp] theorem settings_takeGlyph (l : LineIx) (g : KeyedGlyph) (s : State) :
    (takeGlyph l g s).settings = s.settings := by
  simp only [takeGlyph]; split <;> simp

@[simp] theorem settings_takeDelimiter (l : LineIx) (s : State) :
    (takeDelimiter l s).settings = s.settings := by rw [takeDelimiter]; split <;> simp

@[simp] theorem settings_takeBreak (l : LineIx) (s : State) :
    (takeBreak l s).settings = s.settings := by rw [takeBreak]; split <;> simp

@[simp] theorem settings_takeSpeaker (l : LineIx) (s : State) :
    (takeSpeaker l s).settings = s.settings := by simp [takeSpeaker]

@[simp] theorem settings_takeClearCommand (l : LineIx) (s : State) :
    (takeClearCommand l s).settings = s.settings := by
  simp only [takeClearCommand]; split <;> simp

@[simp] theorem settings_takeHold (l : LineIx) (s : State) :
    (takeHold l s).settings = s.settings := by
  rw [takeHold]; repeat' split
  all_goals simp

@[simp] theorem settings_takeNext (l : LineIx) (s : State) :
    (takeNext l s).settings = s.settings := by rw [takeNext]; split <;> simp

@[simp] theorem settings_reopenWord (l : LineIx) (v : ServiceIx) (w : WordRecord) (t : Frame)
    (s : State) : (reopenWord l v w t s).settings = s.settings :=
  settings_updAsm s l _

@[simp] theorem settings_lateCorrection (l : LineIx) (s : State) :
    (lateCorrection l s).settings = s.settings := by simp [lateCorrection]

@[simp] theorem settings_takeBackspace (l : LineIx) (s : State) :
    (takeBackspace l s).settings = s.settings := by
  rw [takeBackspace]; repeat' split
  all_goals simp

@[simp] theorem settings_discard (l : LineIx) (s : State) :
    (discard l s).settings = s.settings := settings_updLine rfl

@[simp] theorem settings_takeCode (l : LineIx) (i : IntakeItem) (s : State) :
    (takeCode l i s).settings = s.settings := by
  have e : (s.updLine l fun x => { x with commandPending := false }).settings = s.settings :=
    settings_updLine rfl
  simp only [takeCode]; repeat' split
  all_goals simp [e]

@[simp] theorem settings_decodeItem (l : LineIx) (i : IntakeItem) (s : State) :
    (decodeItem l i s).settings = s.settings := by
  have e : (s.updLine l fun x => { x with commandPending := true }).settings = s.settings :=
    settings_updLine rfl
  rw [decodeItem]; repeat' split
  all_goals simp [e]

@[simp] theorem settings_endStall (l : LineIx) (s : State) :
    (endStall l s).settings = s.settings := by
  simp only [endStall]; split <;> simp

@[simp] theorem settings_retryWord (l : LineIx) (w : WordRecord) (s : State) :
    (retryWord l w s).settings = s.settings := by
  simp only [retryWord]; repeat' split
  all_goals simp

@[simp] theorem settings_retryMarker (l : LineIx) (a : Frame) (s : State) :
    (retryMarker l a s).settings = s.settings := by
  simp only [retryMarker]; repeat' split
  all_goals simp

@[simp] theorem settings_retryHeld (l : LineIx) (s : State) :
    (retryHeld l s).settings = s.settings := by
  simp only [retryHeld]; repeat' split
  all_goals simp

@[simp] theorem record_transmit (x : Line) : (transmit x).record = x.record := by
  rw [transmit]; split <;> rfl

@[simp] theorem record_setXoff (b : Bool) (x : Line) : (setXoff b x).record = x.record := by
  simp [setXoff]

@[simp] theorem record_afterRemoval (x : Line) : (afterRemoval x).record = x.record := by
  simp only [afterRemoval]; split <;> simp

theorem settings_handItem {l : LineIx} {s t : State} (h : handItem l s = some t) :
    t.settings = s.settings := by
  simp only [handItem] at h
  repeat' split at h
  all_goals simp at h
  subst h
  rw [settings_decodeItem, settings_updLine (record_afterRemoval _)]

@[simp] theorem settings_checkFlush (l : LineIx) (s : State) :
    (checkFlush l s).settings = s.settings := by rw [checkFlush]; split <;> simp

/-! ### Reactions -/

theorem orElseDo_some {a b : Option State} {t : State} (h : orElseDo a b = some t) :
    a = some t ∨ b = some t := by
  cases a with
  | some x => exact .inl h
  | none => exact .inr h

/-- Everything that one reaction can be. -/
theorem react_cases {s t : State} (h : react s = some t) :
    (∃ v, carryOutClosing v s = some t) ∨ (∃ v, formBlock v s = some t) ∨
      (∃ v, takeHead v s = some t) ∨
      (∃ l, (s.line l).asm.retryOwed = true ∧ t = retryHeld l s) ∨
      (∃ l, handItem l s = some t) := by
  have four {f : Fin 4 → Option State} (g : firstOf f = some t) : ∃ i, f i = some t := by
    rcases orElseDo_some g with g | g
    · exact ⟨_, g⟩
    rcases orElseDo_some g with g | g
    · exact ⟨_, g⟩
    rcases orElseDo_some g with g | g
    · exact ⟨_, g⟩
    · exact ⟨_, g⟩
  rcases orElseDo_some h with h | h
  · obtain ⟨v, h⟩ := four h
    rcases orElseDo_some h with h | h
    · exact .inl ⟨v, h⟩
    rcases orElseDo_some h with h | h
    · exact .inr (.inl ⟨v, h⟩)
    · exact .inr (.inr (.inl ⟨v, h⟩))
  rcases orElseDo_some h with h | h
  · obtain ⟨l, h⟩ := four h
    simp only [retryReact] at h
    split at h
    · next e => simp at h; exact .inr (.inr (.inr (.inl ⟨l, e, h.symm⟩)))
    · simp at h
  · obtain ⟨l, h⟩ := four h
    exact .inr (.inr (.inr (.inr ⟨l, h⟩)))

/-- What every reaction keeps, the settling of an event keeps. -/
theorem settle_keeps {P : State → Prop} (h : ∀ s t, react s = some t → P s → P t) (s : State)
    (hs : P s) : P (settle s) := by
  have go : ∀ n s, P s → P (settleUpTo n s) := by
    intro n
    induction n with
    | zero => exact fun s hs => hs
    | succ n ih =>
      intro s hs
      rw [settleUpTo]
      split
      · exact hs
      · next e => exact ih _ (h _ _ e hs)
  exact go _ s hs

/-- A settled state settles at once. -/
theorem settle_of_settled {s : State} (h : Settled s) : settle s = s := by
  have go : ∀ n, settleUpTo n s = s := by
    intro n
    cases n with
    | zero => rfl
    | succ n => rw [settleUpTo, show react s = none from h]
  exact go _

theorem settings_react {s t : State} (h : react s = some t) : t.settings = s.settings := by
  rcases react_cases h with ⟨_, h⟩ | ⟨_, h⟩ | ⟨_, h⟩ | ⟨_, _, rfl⟩ | ⟨_, h⟩
  · exact settings_carryOutClosing h
  · exact settings_formBlock h
  · exact settings_takeHead h
  · exact settings_retryHeld _ _
  · exact settings_handItem h

@[simp] theorem settings_settle (s : State) : (settle s).settings = s.settings :=
  settle_keeps (P := fun t => t.settings = s.settings) (fun _ _ h e => (settings_react h).trans e) s rfl

/-! ### Frame-start work -/

@[simp] theorem settings_leaveByRelease (v : ServiceIx) (e : Entry) (s : State) :
    (leaveByRelease v e s).settings = s.settings := by simp [leaveByRelease]

@[simp] theorem settings_discardHead (v : ServiceIx) (e : Entry) (s : State) :
    (discardHead v e s).settings = s.settings := by simp [discardHead]

theorem settings_releaseHead {v : ServiceIx} {e : Entry} {s t : State}
    (h : releaseHead v e s = some t) : t.settings = s.settings := by
  simp only [releaseHead] at h
  repeat' split at h
  all_goals simp at h
  all_goals subst h; simp

@[simp] theorem settings_serveUpTo (v : ServiceIx) (n : Nat) (s : State) :
    (serveUpTo v n s).settings = s.settings := by
  induction n generalizing s with
  | zero => rfl
  | succ n ih =>
    rw [serveUpTo]; repeat' split
    · rfl
    · next h => rw [ih, settings_settle, settings_releaseHead h]
    · simp

@[simp] theorem settings_serveQueue (v : ServiceIx) (s : State) :
    (serveQueue v s).settings = s.settings := by rw [serveQueue]; split <;> simp

@[simp] theorem settings_mergeStandby (v : ServiceIx) (s : State) :
    (mergeStandby v s).1.settings = s.settings := by
  have go : ∀ (ws : List WordRecord) (p : State × Nat),
      (ws.foldl (mergeOne v) p).1.settings = p.1.settings := by
    intro ws
    induction ws with
    | nil => exact fun _ => rfl
    | cons w ws ih =>
      intro p
      rw [List.foldl_cons, ih]
      simp only [mergeOne]
      split <;> simp
  simp only [mergeStandby]
  rw [go]; simp

@[simp] theorem settings_failover (v : ServiceIx) (a b : LineIx) (s : State) :
    (failover v a b s).settings = s.settings := by simp [failover]

@[simp] theorem settings_checkSilence (v : ServiceIx) (s : State) :
    (checkSilence v s).settings = s.settings := by
  simp only [checkSilence]; repeat' split
  all_goals simp

@[simp] theorem settings_ageOut (v : ServiceIx) (s : State) :
    (ageOut v s).settings = s.settings := by simp only [ageOut]; split <;> simp

@[simp] theorem settings_endHold (v : ServiceIx) (s : State) :
    (endHold v s).settings = s.settings := by rw [endHold]; split <;> simp

@[simp] theorem settings_switchLine (v : ServiceIx) (c : Choice) (s : State) :
    (switchLine v c s).settings = s.settings := by
  simp only [switchLine]; repeat' split
  all_goals simp

@[simp] theorem settings_offerOnset (v : ServiceIx) (o : Frame) (s : State) :
    (offerOnset v o s).settings = s.settings := by rw [offerOnset]; split <;> simp

@[simp] theorem settings_expireOnsets (v : ServiceIx) (s : State) :
    (expireOnsets v s).settings = s.settings := by simp [expireOnsets]

@[simp] theorem settings_deliver (r : GpiRecord) (a : Bool) (f : Frame) (s : State) :
    (deliver r a f s).settings = s.settings := by
  simp only [deliver]; repeat' split
  all_goals simp

theorem settings_updInput {s : State} {i : InputIx} {f : Input → Input}
    (h : (f (s.input i)).record = (s.input i).record) : (s.updInput i f).settings = s.settings := by
  have e : (s.updInput i f).inputs.map Input.record = s.inputs.map Input.record := by
    simp only [State.input] at h
    simp only [State.updInput]
    fin_cases i <;> simp_all [Oct.map, Oct.set, Oct.get]
  simp [State.settings, e]

@[simp] theorem settings_acceptEdge (i : InputIx) (s : State) :
    (acceptEdge i s).settings = s.settings := by
  have e (a : Bool) : (s.updInput i (acceptChange a)).settings = s.settings := settings_updInput rfl
  simp only [acceptEdge]; split <;> simp [e]

@[simp] theorem settings_frameRetry (l : LineIx) (s : State) :
    (frameRetry l s).settings = s.settings := by rw [frameRetry]; split <;> simp

/-- One piece of work keeps the settings. -/
@[simp] theorem settings_perform (w : Work) (s : State) : (perform w s).settings = s.settings := by
  cases w <;> simp [perform]

/-- Taking a piece of work keeps the settings, but for the agenda, which it leaves. -/
theorem settings_doWork (w : Work) (s : State) :
    (doWork w s).settings = { s.settings with due := s.due.erase w } := by
  rw [doWork]
  split
  · rw [settings_settle, settings_perform]; rfl
  · next h =>
    rw [List.erase_of_not_mem (by simpa using h)]; rfl

theorem due_doWork (w : Work) (s : State) : (doWork w s).due = s.due.erase w :=
  congrArg Settings.due (settings_doWork w s)

theorem foldl_doWork (ws : List Work) (s : State) :
    (ws.foldl (fun t w => doWork w t) s).settings = { s.settings with due := s.due.diff ws } := by
  induction ws generalizing s with
  | nil => rfl
  | cons w ws ih => rw [List.foldl_cons, ih, settings_doWork, due_doWork, List.diff_cons]

/-- Once the work is finished nothing is due, and the other settings stand. -/
theorem settings_finishWork (s : State) :
    (finishWork s).settings = { s.settings with due := [] } := by
  have e : ∀ l : List Work, l.diff l = [] := fun l => by
    induction l with
    | nil => rfl
    | cons w l ih => rw [List.diff_cons, List.erase_cons_head, ih]
  rw [finishWork, foldl_doWork, e]

theorem workDone_finishWork (s : State) : WorkDone (finishWork s) :=
  congrArg Settings.due (settings_finishWork s)

/-- With no work due there is nothing to finish. -/
@[simp] theorem finishWork_of_workDone {s : State} (h : WorkDone s) : finishWork s = s := by
  rw [finishWork, show s.due = [] from h]; rfl

theorem settings_runWork (w : Work) (s : State) :
    ∃ ws, (runWork w s).settings = { s.settings with due := s.due.diff ws } := by
  have one (w : Work) (s : State) :
      (doWork w s).settings = { s.settings with due := s.due.diff [w] } := by
    rw [settings_doWork, List.diff_cons, List.diff_nil]
  unfold runWork
  split
  · next v =>
    dsimp only
    split
    · exact ⟨[.ageOut v, .holdEnd v, .silence v], by
        simp only [settings_doWork, due_doWork, List.diff_cons, List.diff_nil]⟩
    · exact ⟨[.ageOut v, .holdEnd v], by
        simp only [settings_doWork, due_doWork, List.diff_cons, List.diff_nil]⟩
  · next v =>
    exact ⟨[.ageOut v, .holdEnd v, .silence v], by
      simp only [settings_doWork, due_doWork, List.diff_cons, List.diff_nil]⟩
  · exact ⟨_, one _ _⟩

/-- R3: F of a reopened word is a past frame number, at most 2^19 behind PFN, whatever the free value is. -/
theorem reopenedFirst_past (s : State) :
    0 ≤ frameDiff (reopenedFirst s) s.pfn ∧ frameDiff (reopenedFirst s) s.pfn ≤ 524288 := by
  have h := (Config.reopenedAge s.draws).isLt
  simp only [Config.pastLimit] at h
  have e : s.pfn - (s.pfn + BitVec.ofInt 32 (-((Config.reopenedAge s.draws).val : Int))) =
      BitVec.ofNat 32 (Config.reopenedAge s.draws).val := by
    rw [BitVec.ofInt_neg, BitVec.ofInt_natCast]
    bv_omega
  rw [frameDiff, reopenedFirst, moved, e, BitVec.toInt_eq_toNat_cond, BitVec.toNat_ofNat]
  omega

end Sys2Proof.Machine
end

