-- ==== Sys2Proof/Laws/Capacity.lean ====
section
/-! SUPPORT. The shared operations keep every queue, FIFO and list within its capacity. -/

namespace Sys2Proof.Machine

namespace WithinCapacity

variable {s : State}

theorem updLine {l : LineIx} {f : Line → Line} (h : WithinCapacity s)
    (hf : LineFits (f (s.line l))) : WithinCapacity (s.updLine l f) where
  lines m := by rw [line_updLine]; split; exacts [hf, h.lines m]
  services v := h.services v
  reports := h.reports

theorem updService {v : ServiceIx} {f : Service → Service} (h : WithinCapacity s)
    (hf : ServiceFits (f (s.service v))) : WithinCapacity (s.updService v f) where
  lines l := h.lines l
  services u := by rw [service_updService]; split; exacts [hf, h.services u]
  reports := h.reports

theorem updCi {f : Control → Control} (h : WithinCapacity s) (hf : ReportsFit (f s.ci)) :
    WithinCapacity (s.updCi f) where
  lines l := h.lines l
  services v := h.services v
  reports := hf

theorem updAsm {l : LineIx} {f : Assembler → Assembler} (h : WithinCapacity s)
    (hg : (f (s.line l).asm).glyphs.length < Config.wordLimit)
    (hh : HeldFits (f (s.line l).asm).held) : WithinCapacity (s.updAsm l f) :=
  h.updLine { intake := (h.lines l).intake, glyphs := hg, held := hh }

theorem updLat {l : LineIx} {f : Latency → Latency} (h : WithinCapacity s) :
    WithinCapacity (s.updLat l f) :=
  h.updLine { intake := (h.lines l).intake, glyphs := (h.lines l).glyphs, held := (h.lines l).held }

theorem updSel {v : ServiceIx} {f : Selection → Selection} (h : WithinCapacity s)
    (hl : (f (s.service v).sel).standby.length ≤ Config.standbyCapacity)
    (hw : ∀ w ∈ (f (s.service v).sel).standby, WordFits w) : WithinCapacity (s.updSel v f) :=
  h.updService { h.services v with standby := hl, standbyWords := hw }

theorem updOnsets {v : ServiceIx} {f : Onsets → Onsets} (h : WithinCapacity s)
    (hl : (f (s.service v).onsets).frames.length ≤ Config.onsetCapacity) :
    WithinCapacity (s.updOnsets v f) :=
  h.updService { h.services v with onsets := hl }

theorem updRunner {v : ServiceIx} {f : Runner → Runner} (h : WithinCapacity s) :
    WithinCapacity (s.updRunner v f) :=
  h.updService { h.services v with }

theorem updSched {v : ServiceIx} {f : Scheduler → Scheduler} (h : WithinCapacity s)
    (hl : (f (s.service v).sched).queue.length ≤ Config.queueCapacity)
    (he : ∀ e ∈ (f (s.service v).sched).queue, EntryFits e) : WithinCapacity (s.updSched v f) :=
  h.updService { h.services v with queue := hl, entries := he }

theorem updCb {v : ServiceIx} {f : Builder → Builder} (h : WithinCapacity s)
    (hp : ∀ p ∈ (f (s.service v).cb).openBlock.words, WordFits p.word)
    (hc : ∀ c, (f (s.service v).cb).openBlock.carry = some c → WordFits c.word)
    (hb : (f (s.service v).cb).blocks.length ≤ Config.blockCapacity) :
    WithinCapacity (s.updCb v f) :=
  h.updService { h.services v with placed := hp, carry := hc, blocks := hb }

theorem updOm {v : ServiceIx} {f : Carriage → Carriage} (h : WithinCapacity s)
    (hb : bytesHeld (f (s.service v).om) ≤ Config.fifoCapacity) : WithinCapacity (s.updOm v f) :=
  h.updService { h.services v with output := hb }

end WithinCapacity

/-- A builder's open block as it stands, with other fields changed. -/
theorem WithinCapacity.updCb_keep {s : State} {v : ServiceIx} {f : Builder → Builder}
    (h : WithinCapacity s) (ho : (f (s.service v).cb).openBlock = (s.service v).cb.openBlock)
    (hb : (f (s.service v).cb).blocks.length ≤ Config.blockCapacity) :
    WithinCapacity (s.updCb v f) :=
  h.updCb (by rw [ho]; exact (h.services v).placed) (by rw [ho]; exact (h.services v).carry) hb

/-! ### The report queue -/

theorem reports_joinNotice (n : Notice) {c : Control} (h : ReportsFit c) :
    ReportsFit (joinNotice n c) := by
  rw [joinNotice]
  split
  · next e => simpa [ReportsFit] using e
  · exact h

theorem length_withoutYoungestNotice {rs rs' : List Report}
    (h : withoutYoungestNotice rs = some rs') : rs.length = rs'.length + 1 := by
  induction rs generalizing rs' with
  | nil => simp [withoutYoungestNotice] at h
  | cons r rs ih =>
    rw [withoutYoungestNotice] at h
    split at h
    · next e => simp at h; subst h; simp [ih e]
    · split at h
      · simp at h; subst h; simp
      · simp at h

theorem reports_joinReply (r : Report) {c : Control} (h : ReportsFit c) :
    ReportsFit (joinReply r c) := by
  rw [joinReply]
  split
  · next e => simpa [ReportsFit] using e
  · split
    · next e =>
      have := length_withoutYoungestNotice e
      simp only [ReportsFit] at h ⊢
      simp; omega
    · exact h

theorem fits_raise (n : Notice) {s : State} (h : WithinCapacity s) : WithinCapacity (raise n s) :=
  h.updCi (reports_joinNotice n h.reports)

/-! ### Costs -/

@[simp] theorem unitsCost_nil : unitsCost [] = 0 := rfl

@[simp] theorem unitsCost_cons (u : OutUnit) (us : List OutUnit) :
    unitsCost (u :: us) = unitCost u + unitsCost us := by simp [unitsCost]

@[simp] theorem unitsCost_append (us ws : List OutUnit) :
    unitsCost (us ++ ws) = unitsCost us + unitsCost ws := by simp [unitsCost]

/-! ### Latency and the cue queue -/

theorem length_insertFrame (o : Frame) (ps : List Frame) :
    (insertFrame o ps).length = ps.length + 1 := by
  induction ps with
  | nil => rfl
  | cons p ps ih => rw [insertFrame]; split <;> simp [ih]

theorem frames_admitOnset (o : Frame) {x : Onsets} (h : x.frames.length ≤ Config.onsetCapacity) :
    (admitOnset o x).frames.length ≤ Config.onsetCapacity := by
  rw [admitOnset]
  repeat' split
  · exact h
  · next e => simpa [length_insertFrame] using e
  · exact h
  · next e _ => rw [e] at h; simpa [length_insertFrame] using h
  · exact h

theorem fits_offerOnset (v : ServiceIx) (o : Frame) {s : State} (h : WithinCapacity s) :
    WithinCapacity (offerOnset v o s) := by
  rw [offerOnset]
  split
  · exact h.updOnsets (frames_admitOnset o (h.services v).onsets)
  · exact h

theorem fits_expireOnsets (v : ServiceIx) {s : State} (h : WithinCapacity s) :
    WithinCapacity (expireOnsets v s) :=
  h.updOnsets ((List.length_filter_le _ _).trans (h.services v).onsets)

theorem fits_pairOnset (l : LineIx) (v : ServiceIx) (a : Frame) {s : State} (h : WithinCapacity s) :
    WithinCapacity (pairOnset l v a s) := by
  have hf := fun p => (List.length_filter_le p (s.service v).onsets.frames).trans (h.services v).onsets
  simp only [pairOnset]
  split
  · next e =>
    have hl := hf fun o => !strictlyBefore o (moved a (-((s.line l).record.lmax : Int)))
    rw [e] at hl
    split
    · refine ((h.updOnsets ?_).updOnsets ?_).updLat
      · exact hf _
      · simp at hl ⊢; omega
    · refine (h.updOnsets ?_).updLat
      exact hf _
  · refine (h.updOnsets ?_).updLat
    exact hf _

theorem fits_pairIfMarked (l : LineIx) (v : ServiceIx) (a : Frame) {s : State}
    (h : WithinCapacity s) : WithinCapacity (pairIfMarked l v a s) := by
  rw [pairIfMarked]; split
  · exact fits_pairOnset l v a h
  · exact h

theorem fits_testFirstWord (l : LineIx) (w : WordRecord) (r : Bool) {s : State}
    (h : WithinCapacity s) : WithinCapacity (testFirstWord l w r s) := h.updLat

theorem fits_offer (v : ServiceIx) (b : EntryBody) (f : Option Frame) {s : State}
    (h : WithinCapacity s) (hb : EntryFits { body := b, target := 0 }) :
    WithinCapacity (offer v b f s).2 := by
  rw [offer]
  split
  · next e =>
    refine h.updSched ?_ ?_
    · simpa [join, hasRoom] using e
    · intro x hx
      simp only [join, List.mem_append, List.mem_singleton] at hx
      rcases hx with hx | rfl
      · exact (h.services v).entries x hx
      · exact hb
  · have h1 := h.updSched (v := v) (f := fun q => { q with fullRefusals := bump q.fullRefusals })
      (h.services v).queue (h.services v).entries
    exact h1

theorem fits_mapLines {s : State} {f : Line → Line} (h : WithinCapacity s)
    (hf : ∀ x, LineFits x → LineFits (f x)) :
    WithinCapacity { s with lines := s.lines.map f } where
  lines l := by
    show LineFits ((s.lines.map f).get l)
    rw [Quad.get_map]; exact hf _ (h.lines l)
  services v := h.services v
  reports := h.reports

theorem lineFits_oweRetry (v : ServiceIx) {x : Line} (h : LineFits x) : LineFits (oweRetry v x) := by
  rw [oweRetry]
  repeat' split
  · exact { h with }
  · exact h
  · exact h

theorem fits_departed (v : ServiceIx) (t : Frame) {s : State} (h : WithinCapacity s) :
    WithinCapacity (departed v t s) :=
  fits_mapLines (h.updSched (f := fun q => { q with lastLeft := some t })
    (h.services v).queue (h.services v).entries) fun _ => lineFits_oweRetry v

theorem fits_dropHead (v : ServiceIx) (e : Entry) {s : State} (h : WithinCapacity s) :
    WithinCapacity (dropHead v e s) := by
  refine fits_departed v _ (h.updSched ?_ ?_)
  · have := (h.services v).queue
    simp; omega
  · exact fun e he => (h.services v).entries e (List.mem_of_mem_tail he)

theorem fits_dropTail (v : ServiceIx) (e : Entry) {s : State} (h : WithinCapacity s) :
    WithinCapacity (dropTail v e s) := by
  refine fits_departed v _ (h.updSched ?_ ?_)
  · have := (h.services v).queue
    simp; omega
  · exact fun e he => (h.services v).entries e (List.mem_of_mem_dropLast he)

/-! ### The builder -/

theorem fits_appendUnits (v : ServiceIx) (us : List OutUnit) {s : State} (h : WithinCapacity s)
    (hu : unitsCost us ≤ freeRoom (s.service v).om) : WithinCapacity (appendUnits v us s) := by
  refine h.updOm ?_
  have := (h.services v).output
  simp only [bytesHeld, freeRoom] at this hu ⊢
  simp; omega

theorem fits_appendHead {v : ServiceIx} {s t : State} (e : appendHead v s = some t)
    (h : WithinCapacity s) : WithinCapacity t := by
  have hb := (h.services v).blocks
  simp only [appendHead] at e
  split at e
  · simp at e
  · next q =>
    rw [q] at hb
    split at e
    · simp at e; subst e
      refine (h.updCb_keep rfl ?_).updSel ?_ ?_
      · rw [q]; simp at hb ⊢; omega
      · simpa using (h.services v).standby
      · simpa using (h.services v).standbyWords
    · split at e
      · next r =>
        simp at e; subst e
        have ho := (fits_appendUnits v _ h r)
        refine ho.updCb_keep ?_ ?_
        · cases ‹Block› <;> rfl
        · have : ((appendUnits v (blockUnits (s.service v).cb.form ‹Block›) s).service v).cb =
              (s.service v).cb := by
            simp [appendUnits]
          simp only [this]
          cases ‹Block› <;> (simp [afterAppend, q] at hb ⊢; omega)
      · simp at e

/-- An append never adds a block. -/
theorem blocks_appendHead {v : ServiceIx} {s t : State} (e : appendHead v s = some t) :
    (t.service v).cb.blocks = (s.service v).cb.blocks.tail := by
  simp only [appendHead] at e
  repeat' split at e
  all_goals simp at e
  · subst e; simp
  · subst e; cases ‹Block› <;> simp [afterAppend, appendUnits]

theorem fits_appendBlocks (v : ServiceIx) (n : Nat) {s : State} (h : WithinCapacity s) :
    WithinCapacity (appendBlocks v n s) := by
  induction n generalizing s with
  | zero => exact h
  | succ n ih =>
    rw [appendBlocks]; split
    · exact h
    · next e => exact ih (fits_appendHead e h)

theorem fits_attemptAppend (v : ServiceIx) {s : State} (h : WithinCapacity s) :
    WithinCapacity (attemptAppend v s) := fits_appendBlocks v _ h

theorem fits_joinBlock (v : ServiceIx) (b : Block) {s : State} (h : WithinCapacity s)
    (hb : (s.service v).cb.blocks.length < Config.blockCapacity) :
    WithinCapacity (joinBlock v b s) :=
  fits_attemptAppend v (h.updCb_keep rfl (by simpa using hb))

theorem fits_closeNow (v : ServiceIx) (c : CloseCause) (f : Option Frame) {s : State}
    (h : WithinCapacity s) (hb : (s.service v).cb.blocks.length < Config.blockCapacity) :
    WithinCapacity (closeNow v c f s) := by
  have hn : WithinCapacity (s.updCb v fun b => { b with openBlock := emptyOpenBlock }) :=
    h.updCb (by simp [emptyOpenBlock]) (by simp [emptyOpenBlock]) (h.services v).blocks
  simp only [closeNow]
  split
  · exact hn
  · refine fits_joinBlock v _ (h.updCb ?_ ?_ (h.services v).blocks) ?_
    · simp [emptyOpenBlock]
    · simp [emptyOpenBlock]
    · simpa using hb

theorem fits_updOpen (v : ServiceIx) {f : OpenBlock → OpenBlock} {s : State} (h : WithinCapacity s)
    (hp : ∀ p ∈ (f (s.service v).cb.openBlock).words, WordFits p.word)
    (hc : ∀ c, (f (s.service v).cb.openBlock).carry = some c → WordFits c.word) :
    WithinCapacity (updOpen v f s) :=
  h.updCb hp hc (h.services v).blocks

theorem fits_closeOpen (v : ServiceIx) (c : CloseCause) {s : State} (h : WithinCapacity s) :
    WithinCapacity (closeOpen v c s) := by
  simp only [closeOpen]
  split
  · exact h
  · split
    · next e => exact fits_closeNow v _ none h (by simpa [blockRoom] using e)
    · refine h.updCb ?_ ?_ ?_
      · exact (h.services v).placed
      · exact (h.services v).carry
      · exact (h.services v).blocks

theorem words_pushPiece {w : WordRecord} {t : Frame} {a b : Bool} {p : Row} {o : OpenBlock}
    (h : ∀ p ∈ o.words, WordFits p.word) (hw : WordFits w) :
    ∀ q ∈ (pushPiece w t a b p o).words, WordFits q.word := by
  intro q hq
  rw [pushPiece] at hq
  split at hq
  · exact h q hq
  · simp only [pushWord, List.mem_append, List.mem_singleton] at hq
    rcases hq with hq | rfl
    exacts [h q hq, hw]

theorem fits_pushPiece (v : ServiceIx) {w : WordRecord} {t : Frame} {a b : Bool} {p : Row}
    {s : State} (h : WithinCapacity s) (hw : WordFits w) :
    WithinCapacity (updOpen v (pushPiece w t a b p) s) := by
  refine fits_updOpen v h (words_pushPiece (h.services v).placed hw) ?_
  rw [pushPiece]; split <;> exact (h.services v).carry

theorem fits_placePieces (v : ServiceIx) {w : WordRecord} (t : Frame) (hw : WordFits w)
    (ps : List Row) (a b : Bool) {s : State} (h : WithinCapacity s) :
    WithinCapacity (placePieces v w t ps a b s) := by
  induction ps generalizing a b s with
  | nil =>
    rw [placePieces]; split
    · exact fits_closeOpen v _ h
    · exact h
  | cons p ps ih =>
    simp only [placePieces]
    split
    · exact ih _ _ (fits_pushPiece v h hw)
    · have h1 := fits_closeOpen v .ordinary h
      split
      · refine fits_updOpen v h1 (h1.services v).placed ?_
        intro c hc
        simp at hc; subst hc; exact hw
      · exact ih _ _ (fits_pushPiece v h1 hw)

theorem fits_placeWord (v : ServiceIx) {w : WordRecord} (t : Frame) (hw : WordFits w) {s : State}
    (h : WithinCapacity s) : WithinCapacity (placeWord v w t s) := by
  simp only [placeWord]
  split
  · have h1 (rows : List Row) : WithinCapacity (updOpen v (pushWord w t true rows) s) := by
      refine fits_updOpen v h ?_ ?_
      · intro q hq
        simp only [pushWord, List.mem_append, List.mem_singleton] at hq
        rcases hq with hq | rfl
        exacts [(h.services v).placed q hq, hw]
      · exact (h.services v).carry
    split
    · exact fits_closeOpen v _ (h1 _)
    · exact h1 _
  · exact fits_placePieces v t hw _ _ _ (fits_closeOpen v _ h)

theorem fits_markExpiring (v : ServiceIx) {s : State} (h : WithinCapacity s) :
    WithinCapacity (markExpiring v s) :=
  fits_updOpen v h (h.services v).placed (h.services v).carry

theorem fits_takeWord (v : ServiceIx) {w : WordRecord} (t : Frame) (hw : WordFits w) {s : State}
    (h : WithinCapacity s) : WithinCapacity (takeWord v w t s) := by
  have h1 : WithinCapacity (placeWord v w t (if w.speaker || w.breakBefore then
      closeOpen v .ordinary s else s)) := by
    refine fits_placeWord v t hw ?_
    split
    · exact fits_closeOpen v _ h
    · exact h
  simp only [takeWord]
  split
  · exact fits_markExpiring v h1
  · exact h1

theorem length_trailYoungest (t : Frame) (bs : List Block) :
    (trailYoungest t bs).length = bs.length := by
  rw [trailYoungest]
  split
  · next e =>
    have : bs ≠ [] := by rintro rfl; simp at e
    have := List.length_pos_iff.mpr this
    simp; omega
  · rfl

theorem fits_takeClear (v : ServiceIx) (t : Frame) {s : State} (h : WithinCapacity s)
    (hb : (s.service v).cb.blocks.length < Config.blockCapacity) :
    WithinCapacity (takeClear v t s) := by
  simp only [takeClear]
  repeat' split
  · exact fits_closeNow v _ _ h hb
  · exact h.updCb_keep rfl (by simpa [length_trailYoungest] using (h.services v).blocks)
  · exact h
  · exact fits_joinBlock v _ h hb
  · exact fits_joinBlock v _ h hb

theorem fits_takeCue (v : ServiceIx) (a b : Nat) (x : List Byte) (t : Frame) {s : State}
    (h : WithinCapacity s) : WithinCapacity (takeCue v a b x t s) := by
  have h1 := fits_closeOpen v .ordinary h
  rw [takeCue]
  refine h1.updCb_keep ?_ ?_
  · rfl
  · exact (h1.services v).blocks

theorem fits_carryOutClosing {v : ServiceIx} {s t : State} (e : carryOutClosing v s = some t)
    (h : WithinCapacity s) : WithinCapacity t := by
  simp only [carryOutClosing] at e
  repeat' split at e
  all_goals simp at e
  all_goals subst e
  all_goals have h1 := fun c => fits_closeNow v c none h (by simpa [blockRoom] using ‹blockRoom _ = true›)
  · exact h1 _
  · exact fits_markExpiring v (fits_placePieces v _ ((h.services v).carry _ ‹_›) _ _ _ (h1 _))
  · exact fits_placePieces v _ ((h.services v).carry _ ‹_›) _ _ _ (h1 _)

theorem fits_formBlock {v : ServiceIx} {s t : State} (e : formBlock v s = some t)
    (h : WithinCapacity s) : WithinCapacity t := by
  simp only [formBlock] at e
  repeat' split at e
  all_goals simp at e
  all_goals subst e
  · refine h.updCb_keep ?_ ?_
    · rfl
    · exact (h.services v).blocks
  all_goals
    rename_i r _ _ _ _ _
    refine fits_joinBlock v _ (h.updCb_keep ?_ ?_) ?_
    · rfl
    · exact (h.services v).blocks
    · simp [blockRoom] at r
      simpa using r.2

theorem blocks_dropHead (v : ServiceIx) (e : Entry) (s : State) :
    ((dropHead v e s).service v).cb = (s.service v).cb := by
  have : ∀ u, (dropHead v e s).service u = ((s.updSched v fun q => { q with queue := q.queue.tail }).updSched v
    fun q => { q with lastLeft := some e.target }).service u := fun _ => rfl
  rw [this]; simp

theorem fits_takeHead {v : ServiceIx} {s t : State} (e : takeHead v s = some t)
    (h : WithinCapacity s) : WithinCapacity t := by
  simp only [takeHead] at e
  split at e
  · next g =>
    simp [blockRoom] at g
    split at e
    · simp at e
    · next x xs q =>
      split at e
      · have hx := (h.services v).entries x (by rw [q]; simp)
        have hd := fits_dropHead v x h
        split at e
        · next b =>
          simp at e; subst e
          rw [EntryFits, b] at hx
          exact fits_takeWord v _ hx hd
        · simp at e; subst e
          refine fits_takeClear v _ hd ?_
          rw [blocks_dropHead]; exact g.2
        · simp at e; subst e; exact fits_takeCue v _ _ _ _ hd
      · simp at e
  · simp at e

theorem fits_checkHold (v : ServiceIx) {s : State} (h : WithinCapacity s) :
    WithinCapacity (checkHold v s) := by
  have h1 := fits_updOpen v (f := fun o => { o with expiring := false }) h (h.services v).placed
    (h.services v).carry
  simp only [checkHold]
  split
  · exact fits_closeOpen v _ h1
  · exact h1

theorem fits_checkStale (v : ServiceIx) {s : State} (h : WithinCapacity s) :
    WithinCapacity (checkStale v s) := by
  simp only [checkStale]
  split
  · next e =>
    simp at e
    have h1 := fits_appendUnits v [clearUnit] h (by simpa [unitCost, clearUnit, plainUnit] using e.2)
    exact h1.updCb_keep rfl (h1.services v).blocks
  · exact h

theorem fits_checkDmax (v : ServiceIx) {s : State} (h : WithinCapacity s) :
    WithinCapacity (checkDmax v s) := by
  simp only [checkDmax]
  repeat' split
  · next e =>
    simp at e
    have h1 := fits_appendUnits v [clearUnit] h (by simpa [unitCost, clearUnit, plainUnit] using e.2)
    exact h1.updCb_keep rfl (h1.services v).blocks
  · exact h
  · exact h

theorem bytesHeld_onlyClear (o : Carriage) : bytesHeld (onlyClear o) = 1 := rfl

theorem fits_showLeft (v : ServiceIx) (f n : Frame) (last : Bool) {s : State} (h : WithinCapacity s) :
    WithinCapacity (showLeft v f n last s) := by
  rw [showLeft]
  refine h.updCb_keep ?_ ?_
  · rfl
  · exact (h.services v).blocks

theorem fits_clearService (v : ServiceIx) {s : State} (h : WithinCapacity s) :
    WithinCapacity (clearService v s) :=
  (h.updCb_keep rfl (by simp [compositionReset])).updOm (by simp [bytesHeld_onlyClear, Config.fifoCapacity])

theorem fits_beginMute (v : ServiceIx) {s : State} (h : WithinCapacity s) :
    WithinCapacity (beginMute v s) := by
  rw [beginMute]
  split
  · exact h
  · have h1 := h.updSel (v := v) (f := fun x => { x with muted := true })
      (h.services v).standby (h.services v).standbyWords
    exact (h1.updCb_keep rfl (h1.services v).blocks).updOm
      (by simp [bytesHeld_onlyClear, Config.fifoCapacity])

theorem fits_endMute (v : ServiceIx) {s : State} (h : WithinCapacity s) :
    WithinCapacity (endMute v s) :=
  h.updSel (h.services v).standby (h.services v).standbyWords

/-! ### Runners -/

theorem fits_setMode (v : ServiceIx) (m : Mode) {s : State} (h : WithinCapacity s) :
    WithinCapacity (setMode v m s) := by
  simp only [setMode]
  repeat' split
  · exact h
  · exact (h.updSel (h.services v).standby (h.services v).standbyWords).updRunner
  · exact (h.updSel (h.services v).standby (h.services v).standbyWords).updRunner

theorem fits_noteEnd (v : ServiceIx) (k : Nat) (st : Story) {s : State} (h : WithinCapacity s) :
    WithinCapacity (noteEnd v k st s) := by
  rw [noteEnd]; split
  · exact fits_raise _ h
  · exact h

theorem fits_chainTo (v : ServiceIx) (k : Nat) (st : Story) (n : Nat) {s : State}
    (h : WithinCapacity s) : WithinCapacity (chainTo v k st n s) := by
  simp only [chainTo]
  repeat' split
  · exact (fits_noteEnd v k st h).updRunner
  · exact fits_raise _ h.updRunner
  · exact fits_raise _ h.updRunner

theorem fits_endStory (v : ServiceIx) (k : Nat) (st : Story) {s : State} (h : WithinCapacity s) :
    WithinCapacity (endStory v k st s) := by
  simp only [endStory]
  repeat' split
  · exact fits_setMode v _ (fits_noteEnd v k st h).updRunner
  · exact (fits_noteEnd v k st h).updRunner
  · exact fits_chainTo v k st _ h
  · exact h.updRunner

theorem fits_issueCue {v : ServiceIx} {a : Frame} {s t : State} (e : issueCue v a s = some t)
    (h : WithinCapacity s) : WithinCapacity t := by
  simp only [issueCue] at e
  repeat' split at e
  all_goals simp at e
  all_goals subst e
  · refine fits_endStory v _ _ (WithinCapacity.updRunner ?_)
    exact fits_offer v _ _ h trivial
  · refine WithinCapacity.updRunner ?_
    exact fits_offer v _ _ h trivial

theorem fits_cueRefused (v : ServiceIx) {s : State} (h : WithinCapacity s) :
    WithinCapacity (cueRefused v s) := by
  rw [cueRefused]; split
  · exact h
  · exact h.updSched (h.services v).queue (h.services v).entries

theorem fits_trigger (v : ServiceIx) (a : Frame) {s : State} (h : WithinCapacity s) :
    WithinCapacity (trigger v a s) := by
  simp only [trigger]
  repeat' split
  · next e => exact fits_issueCue e h
  · exact (fits_cueRefused v h).updRunner
  · exact h.updRunner

theorem fits_checkTimed (v : ServiceIx) {s : State} (h : WithinCapacity s) :
    WithinCapacity (checkTimed v s) := by
  simp only [checkTimed]
  repeat' split
  · exact h
  · next e => exact fits_issueCue e h
  · exact (fits_cueRefused v h).updRunner
  · exact h

theorem fits_removeCues (v : ServiceIx) (k : Nat) {s : State} (h : WithinCapacity s) :
    WithinCapacity (removeCues v k s) := by
  simp only [removeCues]
  split
  · exact h
  · refine fits_departed v _ (h.updSched ?_ ?_)
    · exact (List.length_filter_le _ _).trans (h.services v).queue
    · exact fun e he => (h.services v).entries e (List.mem_of_mem_filter he)

theorem fits_removeBlocks (v : ServiceIx) (k : Nat) {s : State} (h : WithinCapacity s) :
    WithinCapacity (removeBlocks v k s) :=
  h.updCb_keep rfl ((List.length_filter_le _ _).trans (h.services v).blocks)

theorem fits_drainCheck (v : ServiceIx) {s : State} (h : WithinCapacity s) :
    WithinCapacity (drainCheck v s) := by
  simp only [drainCheck]
  repeat' split
  · exact fits_raise _ h.updRunner
  · exact h
  · exact h

theorem fits_startDrain (v : ServiceIx) (k : Nat) {s : State} (h : WithinCapacity s) :
    WithinCapacity (startDrain v k s) :=
  fits_drainCheck v (fits_removeBlocks v k (fits_removeCues v k h.updRunner))

/-! ### Assemblers and the decoder -/

theorem WithinCapacity.updAsm_keep {s : State} {l : LineIx} {f : Assembler → Assembler}
    (h : WithinCapacity s) (hg : (f (s.line l).asm).glyphs = (s.line l).asm.glyphs)
    (hh : (f (s.line l).asm).held = (s.line l).asm.held) : WithinCapacity (s.updAsm l f) :=
  h.updAsm (by rw [hg]; exact (h.lines l).glyphs) (by rw [hh]; exact (h.lines l).held)

theorem fits_unrouted (l : LineIx) {s : State} (h : WithinCapacity s) :
    WithinCapacity (unrouted l s) := h.updAsm_keep rfl rfl

theorem fits_holdItem (l : LineIx) (i : HeldItem) (v : ServiceIx) {s : State} (h : WithinCapacity s)
    (hi : HeldFits (some { item := i, on := v })) : WithinCapacity (holdItem l i v s) :=
  h.updAsm (h.lines l).glyphs hi

theorem fits_joinStandby (v : ServiceIx) {w : WordRecord} (hw : WordFits w) {s : State}
    (h : WithinCapacity s) : WithinCapacity (s.updSel v (joinStandby w)) := by
  have hl := (h.services v).standby
  have hs := (h.services v).standbyWords
  refine h.updSel ?_ ?_
  · rw [joinStandby]
    split
    · next e => simpa using e
    · next e => simp [Config.standbyCapacity] at hl e ⊢; omega
  · intro x hx
    rw [joinStandby] at hx
    split at hx
    · simp only [List.mem_append, List.mem_singleton] at hx
      rcases hx with hx | rfl
      exacts [hs x hx, hw]
    · simp only [List.mem_append, List.mem_singleton] at hx
      rcases hx with hx | rfl
      exacts [hs x (List.mem_of_mem_tail hx), hw]

theorem fits_routeWord (l : LineIx) {w : WordRecord} (hw : WordFits w) {s : State}
    (h : WithinCapacity s) : WithinCapacity (routeWord l w s) := by
  simp only [routeWord]
  repeat' split
  · exact fits_pairIfMarked l _ _ (fits_offer _ _ _ h hw)
  · exact fits_holdItem l _ _ (fits_offer _ _ _ h hw) hw
  · exact fits_joinStandby _ hw h
  · exact fits_unrouted l h

theorem fits_routeMarker (l : LineIx) (a : Frame) {s : State} (h : WithinCapacity s) :
    WithinCapacity (routeMarker l a s) := by
  simp only [routeMarker]
  repeat' split
  · exact fits_offer _ _ _ h trivial
  · exact fits_holdItem l _ _ (fits_offer _ _ _ h trivial) trivial
  · exact fits_unrouted l h

/-- A word under assembly of at most 32 glyphs is completed. -/
theorem fits_completeWord (l : LineIx) (b : Bool) {s : State}
    (hs : ∀ f : Assembler → Assembler, (f (s.line l).asm).glyphs = [] →
      (f (s.line l).asm).held = (s.line l).asm.held → WithinCapacity (s.updAsm l f))
    (h1 : 1 ≤ (s.line l).asm.glyphs.length)
    (h2 : (s.line l).asm.glyphs.length ≤ Config.wordLimit) : WithinCapacity (completeWord l b s) :=
  fits_routeWord l ⟨h1, h2⟩ (fits_testFirstWord l _ _ (hs afterCompletion rfl rfl))

theorem fits_completeWord' (l : LineIx) (b : Bool) {s : State} (h : WithinCapacity s)
    (h1 : (s.line l).asm.glyphs.isEmpty = false) : WithinCapacity (completeWord l b s) := by
  refine fits_completeWord l b (fun f hg hh => ?_) ?_ (h.lines l).glyphs.le
  · exact h.updAsm (by rw [hg]; decide) (by rw [hh]; exact (h.lines l).held)
  · simp at h1; exact List.length_pos_iff.mpr h1

theorem fits_flushWord (l : LineIx) {s : State} (h : WithinCapacity s) :
    WithinCapacity (flushWord l s) := by
  rw [flushWord]; split
  · exact h
  · next e => exact fits_completeWord' l _ h (by simpa using e)

theorem fits_endHoldByGlyph (l : LineIx) {s : State} (h : WithinCapacity s) :
    WithinCapacity (endHoldByGlyph l s) := by
  rw [endHoldByGlyph]; split
  · exact h.updSel (h.services _).standby (h.services _).standbyWords
  · exact h

theorem fits_takeGlyph (l : LineIx) (g : KeyedGlyph) {s : State} (h : WithinCapacity s) :
    WithinCapacity (takeGlyph l g s) := by
  have h0 := fits_endHoldByGlyph l h
  have hl := (h0.lines l).glyphs
  have hn : (appendGlyph s.pfn g ((endHoldByGlyph l s).line l).asm).glyphs.length =
      ((endHoldByGlyph l s).line l).asm.glyphs.length + 1 := by
    rw [appendGlyph]; split
    · next e => simp at e; simp [e]
    · simp
  have hh : (appendGlyph s.pfn g ((endHoldByGlyph l s).line l).asm).held =
      ((endHoldByGlyph l s).line l).asm.held := by
    rw [appendGlyph]; split <;> rfl
  simp only [takeGlyph]
  split
  · have h1 : WithinCapacity (completeWord l false
        ((endHoldByGlyph l s).updAsm l (appendGlyph s.pfn g))) := by
      refine fits_completeWord l _ (fun f hg hf => ?_) ?_ ?_
      · simp at hg hf
        have : ((endHoldByGlyph l s).updAsm l (appendGlyph s.pfn g)).updAsm l f =
            (endHoldByGlyph l s).updAsm l (fun a => f (appendGlyph s.pfn g a)) := by
          simp only [State.updAsm, State.updLine]
          congr 1
          fin_cases l <;> rfl
        rw [this]
        exact h0.updAsm (by rw [hg]; decide) (by rw [hf, hh]; exact (h0.lines l).held)
      · simp [hn]
      · simp [hn]; omega
    exact h1.updAsm_keep rfl rfl
  · next e =>
    simp at e
    exact h0.updAsm e (by rw [hh]; exact (h0.lines l).held)

theorem fits_takeDelimiter (l : LineIx) {s : State} (h : WithinCapacity s) :
    WithinCapacity (takeDelimiter l s) := by
  rw [takeDelimiter]; split
  · exact h.updAsm_keep rfl rfl
  · next e => exact fits_completeWord' l _ h (by simpa using e)

theorem fits_takeBreak (l : LineIx) {s : State} (h : WithinCapacity s) :
    WithinCapacity (takeBreak l s) := by
  rw [takeBreak]; split
  · exact h.updAsm_keep rfl rfl
  · next e => exact fits_completeWord' l _ h (by simpa using e)

theorem fits_takeClearCommand (l : LineIx) {s : State} (h : WithinCapacity s) :
    WithinCapacity (takeClearCommand l s) := by
  have h1 := fits_flushWord l h
  simp only [takeClearCommand]; split
  · exact h1.updAsm_keep rfl rfl
  · exact fits_routeMarker l _ h1

theorem fits_takeHold (l : LineIx) {s : State} (h : WithinCapacity s) :
    WithinCapacity (takeHold l s) := by
  rw [takeHold]; repeat' split
  · exact h
  · exact h.updSel (h.services _).standby (h.services _).standbyWords
  · exact h

theorem fits_takeNext (l : LineIx) {s : State} (h : WithinCapacity s) :
    WithinCapacity (takeNext l s) := by
  rw [takeNext]; split
  · exact fits_trigger _ _ h
  · exact h

theorem length_dropGlyph (a : Assembler) :
    (dropGlyph a).glyphs.length = a.glyphs.length - 1 := by
  simp only [dropGlyph]
  split
  · next e =>
    have := congrArg List.length (by simpa using e : a.glyphs.dropLast = [])
    simp at this
    simp [emptied]; omega
  · simp

theorem held_dropGlyph (a : Assembler) : (dropGlyph a).held = a.held := by
  simp only [dropGlyph]; split <;> rfl

theorem fits_reopenWord (l : LineIx) (v : ServiceIx) {w : WordRecord} (t : Frame) (hw : WordFits w)
    {s : State} (h : WithinCapacity s) : WithinCapacity (reopenWord l v w t s) := by
  have h1 : WithinCapacity (s.updAsm l (reopen v w t (reopenedFirst s))) := by
    refine h.updAsm ?_ ?_
    · have := hw.2
      simp only [reopen, length_dropGlyph]
      simp [Config.wordLimit] at this ⊢; omega
    · simp only [reopen, held_dropGlyph]; exact (h.lines l).held
  exact { lines := h1.lines, services := h1.services, reports := h1.reports }

theorem fits_unplace (v : ServiceIx) {s : State} (h : WithinCapacity s) :
    WithinCapacity (updOpen v unplace s) := by
  refine fits_updOpen v h ?_ ?_
  · rw [unplace]; split
    · exact (h.services v).placed
    · exact fun p hp => (h.services v).placed p (List.mem_of_mem_dropLast hp)
  · rw [unplace]; split
    · exact (h.services v).carry
    · simp

theorem youngest_inQueue {x : Service} {l : LineIx} {e : Entry} {w : WordRecord}
    (h : youngestFor x l = .inQueue e w) :
    x.sched.queue.getLast? = some e ∧ e.body = .word w ∧ w.line = l := by
  rw [youngestFor] at h
  split at h
  · next q =>
    split at h
    · next b =>
      split at h
      · next c => simp at h; obtain ⟨rfl, rfl⟩ := h; exact ⟨q, b, c⟩
      · simp at h
    · simp at h
  · repeat' split at h
    all_goals simp at h

theorem youngest_inBlock {x : Service} {l : LineIx} {p : Placed}
    (h : youngestFor x l = .inBlock p) :
    x.sched.queue = [] ∧ x.cb.openBlock.words.getLast? = some p ∧ p.whole = true ∧
      p.word.line = l := by
  rw [youngestFor] at h
  split at h
  · repeat' split at h
    all_goals simp at h
  · next q =>
    split at h
    · next c =>
      split at h
      · next d => simp at h; subst h; exact ⟨by simpa using q, c, d.1, d.2⟩
      · simp at h
    · simp at h

theorem fits_takeBackspace (l : LineIx) {s : State} (h : WithinCapacity s) :
    WithinCapacity (takeBackspace l s) := by
  have hl : WithinCapacity (lateCorrection l s) := h.updAsm_keep rfl rfl
  rw [takeBackspace]
  split
  · refine h.updAsm ?_ ?_
    · rw [length_dropGlyph]; have := (h.lines l).glyphs; omega
    · rw [held_dropGlyph]; exact (h.lines l).held
  · split
    · exact hl
    · next v _ =>
      split
      · next e =>
        obtain ⟨q, b, -⟩ := youngest_inQueue e
        have := (h.services v).entries _ (List.mem_of_getLast? q)
        rw [EntryFits, b] at this
        exact fits_reopenWord l v _ this (fits_dropTail v _ h)
      · next e =>
        obtain ⟨-, q, -⟩ := youngest_inBlock e
        exact fits_reopenWord l v _ ((h.services v).placed _ (List.mem_of_getLast? q))
          (fits_unplace v h)
      · exact hl

theorem fits_discard (l : LineIx) {s : State} (h : WithinCapacity s) :
    WithinCapacity (discard l s) := h.updLine { h.lines l with }

theorem fits_takeCode (l : LineIx) (i : IntakeItem) {s : State} (h : WithinCapacity s) :
    WithinCapacity (takeCode l i s) := by
  have h1 : WithinCapacity (s.updLine l fun x => { x with commandPending := false }) :=
    h.updLine { h.lines l with }
  simp only [takeCode]
  repeat' split
  · exact fits_discard l h1
  · exact h1.updAsm_keep rfl rfl
  · exact fits_takeBreak l h1
  · exact fits_takeClearCommand l h1
  · exact fits_flushWord l h1
  · exact fits_takeNext l h1
  · exact fits_takeHold l h1
  · exact fits_discard l h1

theorem fits_decodeItem (l : LineIx) (i : IntakeItem) {s : State} (h : WithinCapacity s) :
    WithinCapacity (decodeItem l i s) := by
  rw [decodeItem]
  repeat' split
  · exact fits_takeCode l i h
  · exact fits_takeGlyph l _ h
  · exact fits_takeDelimiter l h
  · exact fits_takeBackspace l h
  · exact h.updLine { h.lines l with }
  · exact fits_discard l h

/-! ### Reactions -/

theorem fits_endStall (l : LineIx) {s : State} (h : WithinCapacity s) :
    WithinCapacity (endStall l s) := by
  have h1 : WithinCapacity (s.updAsm l fun a => { a with held := none, clearPending := none }) :=
    h.updAsm (h.lines l).glyphs trivial
  simp only [endStall]; split
  · exact fits_routeMarker l _ h1
  · exact h1

theorem fits_retryWord (l : LineIx) {w : WordRecord} (hw : WordFits w) {s : State}
    (h : WithinCapacity s) : WithinCapacity (retryWord l w s) := by
  simp only [retryWord]
  repeat' split
  · exact fits_endStall l (fits_pairIfMarked l _ _ (fits_offer _ _ _ h hw))
  · exact fits_holdItem l _ _ (fits_offer _ _ _ h hw) hw
  · exact fits_endStall l (fits_joinStandby _ hw h).updLat
  · exact fits_endStall l (fits_unrouted l h).updLat

theorem fits_retryMarker (l : LineIx) (a : Frame) {s : State} (h : WithinCapacity s) :
    WithinCapacity (retryMarker l a s) := by
  simp only [retryMarker]
  repeat' split
  · exact fits_endStall l (fits_offer _ _ _ h trivial)
  · exact fits_holdItem l _ _ (fits_offer _ _ _ h trivial) trivial
  · exact fits_endStall l (fits_unrouted l h)

theorem fits_retryHeld (l : LineIx) {s : State} (h : WithinCapacity s) :
    WithinCapacity (retryHeld l s) := by
  have h1 : WithinCapacity (s.updAsm l fun a => { a with retryOwed := false }) :=
    h.updAsm_keep rfl rfl
  have hh := (h.lines l).held
  simp only [retryHeld]
  split
  · exact h1
  · next e =>
    rw [e] at hh
    split
    · next i =>
      refine fits_retryWord l ?_ h1
      cases ‹Held›; simp at i; subst i; exact hh
    · exact fits_retryMarker l _ h1

theorem lineFits_transmit {x : Line} (h : LineFits x) : LineFits (transmit x) := by
  rw [transmit]; split
  · exact { h with }
  · exact h

theorem lineFits_setXoff (b : Bool) {x : Line} (h : LineFits x) : LineFits (setXoff b x) :=
  lineFits_transmit { h with }

theorem lineFits_afterRemoval {x : Line} (h : LineFits x) : LineFits (afterRemoval x) := by
  have h1 : LineFits { x with
      fifo := x.fifo.tail
      overrunOpen := if x.fifo.tail.length = Config.episodeEnd then false else x.overrunOpen } :=
    { h with intake := by have := h.intake; simp; omega }
  simp only [afterRemoval]
  split
  · exact lineFits_setXoff false h1
  · exact h1

theorem fits_handItem {l : LineIx} {s t : State} (e : handItem l s = some t)
    (h : WithinCapacity s) : WithinCapacity t := by
  simp only [handItem] at e
  repeat' split at e
  all_goals first | (simp at e; done) | skip
  simp only [Option.some.injEq] at e
  subst e
  exact fits_decodeItem l _ (h.updLine (lineFits_afterRemoval (h.lines l)))

theorem fits_react {s t : State} (e : react s = some t) (h : WithinCapacity s) :
    WithinCapacity t := by
  rcases react_cases e with ⟨_, e⟩ | ⟨_, e⟩ | ⟨_, e⟩ | ⟨_, _, rfl⟩ | ⟨_, e⟩
  · exact fits_carryOutClosing e h
  · exact fits_formBlock e h
  · exact fits_takeHead e h
  · exact fits_retryHeld _ h
  · exact fits_handItem e h

theorem fits_settle {s : State} (h : WithinCapacity s) : WithinCapacity (settle s) :=
  settle_keeps (fun _ _ => fits_react) s h

end Sys2Proof.Machine
end

