-- ==== Sys2Proof/WellFormed.lean ====
section
/-! DEFINITION. Which commands are well formed: what the type of an operand does not already say. -/

namespace Sys2Proof

/-- Frame-start work, as against the drain check of a carriage point. -/
def Work.atFrameStart : Work → Bool
  | .drain _ => false
  | _ => true

/-- An internal frame's order names frame-start work, each piece at most once. -/
def InternalFrame.wf (f : InternalFrame) : Bool :=
  decide f.order.Nodup && f.order.all Work.atFrameStart

/-- R12, R151: a well-formed command names the packet that its row is about. A packet of class CONTROL
is no case of CAPTION_PACKET_REMOVED, a forwarded control packet is of class CONTROL, an unknown
request kind is none of the fifteen, and every ancillary packet has a class byte. -/
def Instr.wf : Instr → Bool
  | .lossThresholdExpiry _ f1 f2 f3 => f1.wf && f2.wf && f3.wf
  | .frameTimerExpiry _ f => f.wf
  | .captionPacketRemoved packet => !packet.isEmpty && packet.head? != some 0x62#8
  | .controlPacketForwarded packet => packet.head? == some 0x62#8
  | .unknownRequest kind _ => kind == 0#8 || (15#8).ult kind
  | _ => true

end Sys2Proof
end

