-- ==== Sys2Proof/Laws/PerInstr.lean ====
section
/-! SUPPORT. Per command: what its well-formedness says, spelled out. -/

namespace Sys2Proof.Laws

/-- The work orders that an internal frame may be given (log 2). -/
def F.OrdersWork (f : InternalFrame) : Prop := f.order.Nodup ∧ ∀ w ∈ f.order, w.atFrameStart = true

/-- What the rules ask of a command's operands, their types aside. -/
def F.OperandsMeet : Instr → Prop
  | .lossThresholdExpiry _ f1 f2 f3 => F.OrdersWork f1 ∧ F.OrdersWork f2 ∧ F.OrdersWork f3
  | .frameTimerExpiry _ f => F.OrdersWork f
  | .captionPacketRemoved packet => ∃ c rest, packet = c :: rest ∧ c ≠ 0x62#8
  | .controlPacketForwarded packet => ∃ rest, packet = 0x62#8 :: rest
  | .unknownRequest kind _ => kind.toNat = 0 ∨ 15 < kind.toNat
  | _ => True

/-- A command is well formed exactly when its operands meet the rules. -/
def F.Statement (i : Instr) : Prop := i.wf = true ↔ F.OperandsMeet i

theorem F.ordersWork_iff (f : InternalFrame) : f.wf = true ↔ F.OrdersWork f := by
  simp [InternalFrame.wf, F.OrdersWork]

theorem F.powerOnReset : F.Statement .powerOnReset :=
  ⟨fun _ => trivial, fun _ => rfl⟩

theorem F.resetPinAssert : F.Statement .resetPinAssert :=
  ⟨fun _ => trivial, fun _ => rfl⟩

theorem F.resetPinRelease : F.Statement .resetPinRelease :=
  ⟨fun _ => trivial, fun _ => rfl⟩

theorem F.frameStart (levels : BitVec 8) : F.Statement (.frameStart levels) :=
  ⟨fun _ => trivial, fun _ => rfl⟩

theorem F.lossThresholdExpiry (levels : BitVec 8) (f1 f2 f3 : InternalFrame) :
    F.Statement (.lossThresholdExpiry levels f1 f2 f3) := by
  simp [F.Statement, Instr.wf, F.OperandsMeet, F.ordersWork_iff, and_assoc]

theorem F.frameTimerExpiry (levels : BitVec 8) (f : InternalFrame) :
    F.Statement (.frameTimerExpiry levels f) := by
  simp [F.Statement, Instr.wf, F.OperandsMeet, F.ordersWork_iff]

theorem F.carriagePoint (drainFirst : BitVec 4) : F.Statement (.carriagePoint drainFirst) :=
  ⟨fun _ => trivial, fun _ => rfl⟩

theorem F.captionPacketRemoved (packet : List Byte) :
    F.Statement (.captionPacketRemoved packet) := by
  cases packet <;> simp [F.Statement, Instr.wf, F.OperandsMeet]

theorem F.controlPacketForwarded (packet : List Byte) :
    F.Statement (.controlPacketForwarded packet) := by
  cases packet <;> simp [F.Statement, Instr.wf, F.OperandsMeet]

theorem F.unknownRequest (kind : Byte) (p : Request) : F.Statement (.unknownRequest kind p) := by
  simp [F.Statement, Instr.wf, F.OperandsMeet, BitVec.ult, ← BitVec.toNat_inj]

theorem F.setDevice (p : Request) : F.Statement (.setDevice p) :=
  ⟨fun _ => trivial, fun _ => rfl⟩

theorem F.loadLine (p : Request) : F.Statement (.loadLine p) :=
  ⟨fun _ => trivial, fun _ => rfl⟩

theorem F.loadService (p : Request) : F.Statement (.loadService p) :=
  ⟨fun _ => trivial, fun _ => rfl⟩

theorem F.loadSlotmap (p : Request) : F.Statement (.loadSlotmap p) :=
  ⟨fun _ => trivial, fun _ => rfl⟩

theorem F.loadStory (p : Request) : F.Statement (.loadStory p) :=
  ⟨fun _ => trivial, fun _ => rfl⟩

theorem F.loadCue (p : Request) : F.Statement (.loadCue p) :=
  ⟨fun _ => trivial, fun _ => rfl⟩

theorem F.loadGpi (p : Request) : F.Statement (.loadGpi p) :=
  ⟨fun _ => trivial, fun _ => rfl⟩

theorem F.arm (p : Request) : F.Statement (.arm p) :=
  ⟨fun _ => trivial, fun _ => rfl⟩

theorem F.advance (p : Request) : F.Statement (.advance p) :=
  ⟨fun _ => trivial, fun _ => rfl⟩

theorem F.cancel (p : Request) : F.Statement (.cancel p) :=
  ⟨fun _ => trivial, fun _ => rfl⟩

theorem F.select (p : Request) : F.Statement (.select p) :=
  ⟨fun _ => trivial, fun _ => rfl⟩

theorem F.clear (p : Request) : F.Statement (.clear p) :=
  ⟨fun _ => trivial, fun _ => rfl⟩

theorem F.restart (p : Request) : F.Statement (.restart p) :=
  ⟨fun _ => trivial, fun _ => rfl⟩

theorem F.softReset (p : Request) : F.Statement (.softReset p) :=
  ⟨fun _ => trivial, fun _ => rfl⟩

theorem F.query (p : Request) : F.Statement (.query p) :=
  ⟨fun _ => trivial, fun _ => rfl⟩

theorem F.characterReceived (l : LineIx) (data : Byte) (parityBit stopBit : Bool) :
    F.Statement (.characterReceived l data parityBit stopBit) :=
  ⟨fun _ => trivial, fun _ => rfl⟩

theorem F.transmitComplete (l : LineIx) : F.Statement (.transmitComplete l) :=
  ⟨fun _ => trivial, fun _ => rfl⟩

theorem F.flushDelayExpiry (l : LineIx) : F.Statement (.flushDelayExpiry l) :=
  ⟨fun _ => trivial, fun _ => rfl⟩

theorem F.heldWordRetry (l : LineIx) : F.Statement (.heldWordRetry l) :=
  ⟨fun _ => trivial, fun _ => rfl⟩

theorem F.gpiEdgeAccepted (i : InputIx) : F.Statement (.gpiEdgeAccepted i) :=
  ⟨fun _ => trivial, fun _ => rfl⟩

theorem F.onsetExpiry (v : ServiceIx) : F.Statement (.onsetExpiry v) :=
  ⟨fun _ => trivial, fun _ => rfl⟩

theorem F.standbyAgeOut (v : ServiceIx) : F.Statement (.standbyAgeOut v) :=
  ⟨fun _ => trivial, fun _ => rfl⟩

theorem F.stenographerHoldExpiry (v : ServiceIx) : F.Statement (.stenographerHoldExpiry v) :=
  ⟨fun _ => trivial, fun _ => rfl⟩

theorem F.silenceLimitReached (v : ServiceIx) : F.Statement (.silenceLimitReached v) :=
  ⟨fun _ => trivial, fun _ => rfl⟩

theorem F.timedIssue (v : ServiceIx) : F.Statement (.timedIssue v) :=
  ⟨fun _ => trivial, fun _ => rfl⟩

theorem F.rollUpRelease (v : ServiceIx) : F.Statement (.rollUpRelease v) :=
  ⟨fun _ => trivial, fun _ => rfl⟩

theorem F.popOnTake (v : ServiceIx) : F.Statement (.popOnTake v) :=
  ⟨fun _ => trivial, fun _ => rfl⟩

theorem F.pendingClosing (v : ServiceIx) : F.Statement (.pendingClosing v) :=
  ⟨fun _ => trivial, fun _ => rfl⟩

theorem F.cueBlockFormation (v : ServiceIx) : F.Statement (.cueBlockFormation v) :=
  ⟨fun _ => trivial, fun _ => rfl⟩

theorem F.blockHoldExpiry (v : ServiceIx) : F.Statement (.blockHoldExpiry v) :=
  ⟨fun _ => trivial, fun _ => rfl⟩

theorem F.blockAppend (v : ServiceIx) : F.Statement (.blockAppend v) :=
  ⟨fun _ => trivial, fun _ => rfl⟩

theorem F.staleClear (v : ServiceIx) : F.Statement (.staleClear v) :=
  ⟨fun _ => trivial, fun _ => rfl⟩

theorem F.dmaxClear (v : ServiceIx) : F.Statement (.dmaxClear v) :=
  ⟨fun _ => trivial, fun _ => rfl⟩

theorem F.drainComplete (v : ServiceIx) : F.Statement (.drainComplete v) :=
  ⟨fun _ => trivial, fun _ => rfl⟩

theorem F.startBitDetected (l : LineIx) (highAtMiddle : Bool) :
    F.Statement (.startBitDetected l highAtMiddle) :=
  ⟨fun _ => trivial, fun _ => rfl⟩

theorem F.wireSeenHigh (l : LineIx) : F.Statement (.wireSeenHigh l) :=
  ⟨fun _ => trivial, fun _ => rfl⟩

end Sys2Proof.Laws
end

