-- ==== Sys2Proof/Laws/Reactions.lean ====
section
/-! SUPPORT. When a reaction is due, and what settling does where none is (log 4). -/

namespace Sys2Proof.Machine

theorem carryOutClosing_eq_none {v : ServiceIx} {s : State} :
    carryOutClosing v s = none ↔
      (s.service v).cb.openBlock.closing = none ∨ blockRoom (s.service v).cb = false := by
  simp only [carryOutClosing]
  split
  · next h => simp [h]
  · next c h =>
    rw [h]
    split
    · next hr => split <;> simp [hr]
    · next hr => simpa using hr

theorem formBlock_eq_none {v : ServiceIx} {s : State} :
    formBlock v s = none ↔
      (s.service v).cb.cue = none ∨ (s.service v).cb.openBlock.closing.isSome = true ∨
        blockRoom (s.service v).cb = false := by
  simp only [formBlock]
  split
  · next h => simp [h]
  · next k h =>
    rw [h]
    split
    · next hr => simpa using hr
    · next hr =>
      have : ¬ ((s.service v).cb.openBlock.closing.isSome = true ∨ blockRoom (s.service v).cb = false) := by
        simpa using hr
      split <;> simp [this]

/-- The builder of the service has room for a take: what R116 asks but for the head. -/
def mayTake (x : Service) : Bool :=
  x.record.enabled && x.cb.openBlock.closing.isNone && x.cb.cue.isNone && blockRoom x.cb

theorem takeHead_eq_none {v : ServiceIx} {s : State} :
    takeHead v s = none ↔
      mayTake (s.service v) = false ∨
        ∀ e, (s.service v).sched.queue.head? = some e →
          popOnPath (s.service v).record.display e.body = false := by
  simp only [takeHead]
  rw [show ((s.service v).record.enabled && (s.service v).cb.openBlock.closing.isNone &&
    (s.service v).cb.cue.isNone && blockRoom (s.service v).cb) = mayTake (s.service v) from rfl]
  split
  · next hm =>
    rw [hm]
    split
    · next hq => simp [hq]
    · next e es hq =>
      rw [hq]
      split
      · next hp => split <;> simp [hp]
      · next hp => simpa using hp
  · next hm => simp [hm]

/-- Nothing is due of the builder of a service. -/
def QuietService (x : Service) : Prop :=
  (x.cb.openBlock.closing = none ∨ blockRoom x.cb = false) ∧
    (x.cb.cue = none ∨ x.cb.openBlock.closing.isSome = true ∨ blockRoom x.cb = false) ∧
    (mayTake x = false ∨
      ∀ e, x.sched.queue.head? = some e → popOnPath x.record.display e.body = false)

/-- Nothing is due of a line: no retry is owed, and the intake FIFO waits behind a stall or is empty. -/
def QuietLine (x : Line) : Prop :=
  x.asm.retryOwed = false ∧ (x.asm.held.isSome = true ∨ x.fifo = [])

theorem orElseDo_eq_none {a b : Option State} : orElseDo a b = none ↔ a = none ∧ b = none := by
  cases a <;> simp [orElseDo]

theorem firstOf_eq_none {f : Fin 4 → Option State} : firstOf f = none ↔ ∀ i, f i = none := by
  simp only [firstOf, orElseDo_eq_none]
  constructor
  · rintro ⟨h0, h1, h2, h3⟩ i
    fin_cases i <;> assumption
  · exact fun h => ⟨h 0, h 1, h 2, h 3⟩

theorem builderReact_eq_none {v : ServiceIx} {s : State} :
    builderReact v s = none ↔ QuietService (s.service v) := by
  simp only [builderReact, orElseDo_eq_none, carryOutClosing_eq_none, formBlock_eq_none,
    takeHead_eq_none, QuietService]

theorem handItem_eq_none {l : LineIx} {s : State} :
    handItem l s = none ↔ (s.line l).asm.held.isSome = true ∨ (s.line l).fifo = [] := by
  show handItem l s = none ↔ stalled s l = true ∨ (s.line l).fifo = []
  rw [handItem]
  split
  · next h => simp [h]
  · next h =>
    split
    · next hf => simp [hf]
    · next hf => simp [hf, h]

/-- A state is settled when nothing is due of any service or line. -/
theorem settled_iff {s : State} :
    Settled s ↔ (∀ v, QuietService (s.service v)) ∧ ∀ l, QuietLine (s.line l) := by
  simp only [Settled, react, orElseDo_eq_none, firstOf_eq_none, builderReact_eq_none, retryReact,
    handItem_eq_none, QuietLine]
  refine and_congr_right fun _ => ?_
  constructor
  · rintro ⟨h, h'⟩ l
    exact ⟨by simpa using h l, h' l⟩
  · exact fun h => ⟨fun l => by simp [(h l).1], fun l => (h l).2⟩

/-- Being settled rests on the records, the builders and the queues of the services, and on the stalls,
the owed retries and the intake FIFOs of the lines. -/
theorem settled_congr {s t : State}
    (hv : ∀ v, (t.service v).record = (s.service v).record ∧ (t.service v).cb = (s.service v).cb ∧
      (t.service v).sched.queue = (s.service v).sched.queue)
    (hl : ∀ l, (t.line l).asm.retryOwed = (s.line l).asm.retryOwed ∧
      (t.line l).asm.held = (s.line l).asm.held ∧ (t.line l).fifo = (s.line l).fifo) :
    Settled t ↔ Settled s := by
  rw [settled_iff, settled_iff]
  refine and_congr (forall_congr' fun v => ?_) (forall_congr' fun l => ?_)
  · obtain ⟨h1, h2, h3⟩ := hv v
    rw [QuietService, QuietService, mayTake, mayTake, h1, h2, h3]
  · obtain ⟨h1, h2, h3⟩ := hl l
    rw [QuietLine, QuietLine, h1, h2, h3]

end Sys2Proof.Machine
end

