-- ==== Sys2Proof/Laws/Requests.lean ====
section
/-! SUPPORT. The way of a request from its packet to its reply (R12, R151), and the operand forms read back
from the bytes that stand for them. -/

namespace Sys2Proof.Machine

/-! ### Arrival -/

theorem Ready.takes {s : State} (h : Ready s) : takesPackets s = true := by
  simp [takesPackets, h.awake, h.locked]

/-- An arrival changes nothing of the state but the outgoing packets. -/
theorem Arrives.same {k : Byte} {p : Request} {s t : State} (h : Arrives k p s t) :
    t = { s with out := t.out } := by
  rcases h with ⟨-, rfl⟩ | ⟨-, -, rfl⟩ <;> rfl

/-- A packet that arrives at a ready state is carried out and answered. -/
theorem controlArrival_of_arrives {k : Byte} {p : Request} {carry : Request → State → Handled}
    {s t : State} (hr : Ready s) (ha : Arrives k p s t) :
    controlArrival k p carry s = answer k p (carry p t) := by
  rw [controlArrival, if_pos hr.takes, finishWork_of_workDone hr.done]
  rcases ha with ⟨h, rfl⟩ | ⟨h, h', rfl⟩
  · rw [if_pos h]
  · have : ¬ p.addr.toNat = s.device.address := by rw [h]; simpa using fun e => h' e.symm
    rw [if_neg this, if_pos h]; rfl

/-- The same for SOFT_RESET. -/
theorem softResetArrival_of_arrives {p : Request} {s t : State} (hr : Ready s)
    (ha : Arrives 14#8 p s t) :
    softResetArrival p s =
      answerSoftReset p (interpret (fun n => decide (n = 0)) (fun _ u => accept .ok u) p t) := by
  rw [softResetArrival, if_pos hr.takes, finishWork_of_workDone hr.done]
  rcases ha with ⟨h, rfl⟩ | ⟨h, h', rfl⟩
  · rw [if_pos h]
  · have : ¬ p.addr.toNat = s.device.address := by rw [h]; simpa using fun e => h' e.symm
    rw [if_neg this, if_pos h]; rfl

/-- A packet for another device passes unchanged. -/
theorem controlArrival_of_others {k : Byte} {p : Request} {carry : Request → State → Handled}
    {s : State} (hr : Ready s) (ho : ForOthers p s) :
    controlArrival k p carry s = passed (packetBytes k p) s := by
  rw [controlArrival, if_pos hr.takes, finishWork_of_workDone hr.done, if_neg ho.1, if_neg ho.2]; rfl

/-- A body that stands in the packet and fits the kind reaches the request's handler. -/
theorem interpret_of_hasBody {fits : Nat → Bool} {handler : List Byte → State → Handled} {p : Request}
    {s : State} {b : List Byte} (hb : HasBody p b) (hf : fits b.length = true)
    (h120 : b.length ≤ 120) : interpret fits handler p s = handler b s := by
  obtain ⟨h1, h2⟩ := hb
  have h3 : p.len.toNat ≤ p.body.length := by rw [h1]; exact h2.length_le
  have h4 : p.body.take p.len.toNat = b := by rw [h1]; exact (List.prefix_iff_eq_take.mp h2).symm
  rw [interpret, if_pos, h4]
  simp only [lengthFits, h1, hf, Bool.true_and, Bool.and_eq_true, decide_eq_true_eq]
  omega

theorem answer_eq_replied (k : Byte) (p : Request) (h : Handled) :
    answer k p h = replied k p h.code h.body h.state := rfl

/-! ### Operand forms read back -/

theorem asFin4_byte1 (v : Fin 4) : asFin4 (byte1 v.val) = some v := by fin_cases v <;> rfl
theorem asFin8_byte1 (v : Fin 8) : asFin8 (byte1 v.val) = some v := by fin_cases v <;> rfl
theorem asFlag_flagByte (b : Bool) : asFlag (flagByte b) = some b := by cases b <;> rfl
theorem asRate_rateByte (r : LineRate) : asRate (rateByte r) = some r := by cases r <;> rfl
theorem asDataBits_dataBitsByte (d : DataBits) : asDataBits (dataBitsByte d) = some d := by
  cases d <;> rfl
theorem asParity_parityByte (q : Parity) : asParity (parityByte q) = some q := by cases q <;> rfl
theorem asFunction_functionByte (f : GpiFunction) : asFunction (functionByte f) = some f := by
  cases f <;> rfl
theorem asSlot_lineByte (o : Option (Fin 4)) : asSlot (lineByte o) = some o := by
  rcases o with _ | v
  · rfl
  · fin_cases v <;> rfl

theorem asFin4_eq_none {b : Byte} : asFin4 b = none ↔ 4 ≤ b.toNat := by
  simp [asFin4]
theorem asFin8_eq_none {b : Byte} : asFin8 b = none ↔ 8 ≤ b.toNat := by
  simp [asFin8]

/-- A byte below 4 stands for a line or a service. -/
theorem asFin4_of_lt {b : Byte} (h : b.toNat < 4) :
    asFin4 b = some ⟨b.toNat, h⟩ ∧ b = byte1 b.toNat := by
  simp [asFin4, h, byte1]

theorem asFlag_eq_none {b : Byte} : asFlag b = none ↔ 1 < b.toNat := by
  have e (n : Nat) (hn : n < 256) : b = BitVec.ofNat 8 n ↔ b.toNat = n := by
    rw [← BitVec.toNat_inj, BitVec.toNat_ofNat, Nat.mod_eq_of_lt hn]
  have h0 : b = 0#8 ↔ b.toNat = 0 := e 0 (by omega)
  have h1 : b = 1#8 ↔ b.toNat = 1 := e 1 (by omega)
  rw [asFlag]
  split
  · next h => simp [h]
  · next h =>
    rw [h0] at h
    split
    · next h' => rw [h1] at h'; simp [h']
    · next h' => rw [h1] at h'; simp; omega

/-! ### Stories held and complete (R87) -/

theorem holdsStory_iff {r : Runner} {k : Nat} :
    holdsStory r k = true ↔ r.phase ≠ .idle ∧ r.story = some k := by
  simp [holdsStory]

theorem heldElsewhere_iff {s : State} {v : ServiceIx} {k : Nat} :
    heldElsewhere s v k = true ↔
      ∃ u, u ≠ v ∧ (s.service u).runner.phase ≠ .idle ∧ (s.service u).runner.story = some k := by
  simp only [heldElsewhere, List.any_eq_true, Bool.and_eq_true, decide_eq_true_eq, holdsStory_iff]
  constructor
  · rintro ⟨u, _, h⟩
    exact ⟨u, h⟩
  · rintro ⟨u, h⟩
    exact ⟨u, by fin_cases u <;> decide, h⟩

theorem storyComplete_iff {s : State} {k : Nat} :
    storyComplete s k = true ↔
      ∃ st, storeGet k s.stories = some st ∧
        ∀ j < st.count, (storeGet (st.first + j) s.cues).isSome := by
  unfold storyComplete
  cases storeGet k s.stories <;> simp [cuesLoaded]

theorem holderOf_isSome_iff {s : State} {k : Nat} :
    (holderOf s k).isSome = true ↔
      ∃ v, (s.service v).runner.phase ≠ .idle ∧ (s.service v).runner.story = some k := by
  simp only [holderOf, List.find?_isSome, holdsStory_iff]
  constructor
  · rintro ⟨v, _, h⟩
    exact ⟨v, h⟩
  · rintro ⟨v, h⟩
    exact ⟨v, by fin_cases v <;> decide, h⟩

theorem cueLocked_iff {s : State} {k : Nat} :
    cueLocked s k = true ↔
      ∃ v j st, (s.service v).runner.phase ≠ .idle ∧ (s.service v).runner.story = some j ∧
        storeGet j s.stories = some st ∧ st.first ≤ k ∧ k < st.first + st.count := by
  simp only [cueLocked, List.any_eq_true, Bool.and_eq_true, decide_eq_true_eq]
  constructor
  · rintro ⟨v, -, h, h'⟩
    revert h'
    split
    · simp
    · next j hj =>
      split
      · simp
      · next st hst =>
        simp only [Bool.and_eq_true, decide_eq_true_eq]
        exact fun h' => ⟨v, j, st, h, hj, hst, h'⟩
  · rintro ⟨v, j, st, h, hj, hst, h'⟩
    refine ⟨v, by fin_cases v <;> decide, h, ?_⟩
    simp [hj, hst, h']

/-! ### A departure from a queue (R41) -/

/-- What a departure does to a line: an assembler whose held item waits on that queue owes a retry, and
every other line is as it was. -/
theorem oweRetry_eq (v : ServiceIx) (x : Line) :
    oweRetry v x = if x.asm.held.map Held.on = some v
      then { x with asm := { x.asm with retryOwed := true } } else x := by
  rw [oweRetry]
  cases x.asm.held <;> simp

/-! ### The service that a line feeds (R40, R72) -/

/-- R72: a service with the line on it is the one the line feeds, as no other has that line. -/
theorem feeds_eq_some {s : State} {l : LineIx} {v : ServiceIx} (hi : LinesIsolated s)
    (h : hasLine (s.service v) l = true) : feeds s l = some v := by
  unfold feeds
  rcases hf : fours.find? (fun v => hasLine (s.service v) l) with _ | u
  · exact absurd h (List.find?_eq_none.mp hf v (by fin_cases v <;> decide))
  · have hu : hasLine (s.service u) l = true := by simpa using List.find?_some hf
    rw [hi u v l hu h]

/-- A line that no service has feeds none. -/
theorem feeds_eq_none {s : State} {l : LineIx} (h : ∀ v, hasLine (s.service v) l = false) :
    feeds s l = none :=
  List.find?_eq_none.mpr fun v _ => by simp [h v]

end Sys2Proof.Machine
end

