-- ==== Sys2Proof/Tests/Slice0.lean ====
section
/-! SUPPORT. Tests: ill-formed commands refused, one or two steps of each command with results worked by
hand from the spec (its worked sequences wherever it has one), and a witness for the hypotheses of each
statement. -/

namespace Sys2Proof.Tests

open Sys2Proof.Machine

set_option Elab.async false

/-! ### WellFormed refuses -/

theorem test_wf_loss_order_repeats :
    (Instr.lossThresholdExpiry 0 ⟨[.flush 0, .flush 0], 0⟩ ⟨[], 0⟩ ⟨[], 0⟩).wf = false := by decide
theorem test_wf_timer_order_has_drain : (Instr.frameTimerExpiry 0 ⟨[.drain 0], 0⟩).wf = false := by decide
theorem test_wf_packet_empty : (Instr.captionPacketRemoved []).wf = false := by decide
theorem test_wf_packet_is_control : (Instr.captionPacketRemoved [0x62#8, 1#8]).wf = false := by decide
theorem test_wf_forwarded_not_control : (Instr.controlPacketForwarded [0x61#8]).wf = false := by decide
theorem test_wf_unknown_is_known :
    (Instr.unknownRequest 1#8 ⟨0, 0, 0, []⟩).wf = false ∧
      (Instr.unknownRequest 15#8 ⟨0, 0, 0, []⟩).wf = false := by decide

/-! ### Small states -/

def frame (n : Nat) : Frame := BitVec.ofNat 32 n

/-- LOCKED in frame n, with the frame-start work taken. -/
def locked (n : Nat) : State :=
  { State.reset with ref := .locked, pfn := frame n, timer := .running 3 .f25 }

/-- The state a command leaves. -/
def after (c : Instr) (s : State) : State :=
  match exec c s with
  | .next t => t
  | .fault _ => s
  | .refused _ => s

def setLine (l : LineIx) (f : LineRecord → LineRecord) (s : State) : State :=
  s.updLine l fun x => { x with record := f x.record }

def setService (v : ServiceIx) (f : ServiceRecord → ServiceRecord) (s : State) : State :=
  s.updService v fun x => { x with record := f x.record }

/-- LOCKED in frame n with D 100; service 0 is enabled, LIVE and in roll-up on lines 0 and 1, each with a
latency of 87 frames. -/
def onAir (n : Nat) : State :=
  let s := { locked n with device := { fps := .f25, delay := 100, address := 0 } }
  let s := setLine 0 (fun r => { r with enabled := true }) (setLine 1 (fun r => { r with enabled := true }) s)
  let s := s.updLat 0 fun x => { x with lest := 696 }
  let s := s.updLat 1 fun x => { x with lest := 696 }
  setService 0 (fun r => { r with enabled := true, primary := some 0, backup := some 1 }) s

/-- The same service in POP_ON. -/
def popOn (n : Nat) : State := setService 0 (fun r => { r with display := .popOn }) (onAir n)

/-- The state with one piece of work due. -/
def due (w : Work) (s : State) : State := { s with due := [w] }

def keys (gs : List Byte) : List KeyedGlyph := gs.map fun g => { glyph := g, errored := false }

/-- An unmarked word of line l with arrival frame a. -/
def plain (l : LineIx) (gs : List Byte) (a : Nat) : WordRecord :=
  { glyphs := keys gs, line := l, arrival := frame a, speaker := false, breakBefore := false,
    breakAfter := false, cont := false, floor := none }

def entry (l : LineIx) (gs : List Byte) (a t : Nat) : Entry :=
  { body := .word (plain l gs a), target := frame t }

/-- A word under assembly on line l. -/
def typing (l : LineIx) (gs : List Byte) (f : Nat) (s : State) : State :=
  s.updAsm l fun a => { a with glyphs := keys gs, first := some (frame f) }

/-- A control packet to the device's own address. -/
def req (body : List Byte) : Request :=
  { addr := 0, tag := 7, len := BitVec.ofNat 8 body.length, body := body }

def queued (es : List Entry) (s : State) : State := s.updSched 0 fun q => { q with queue := es }

def fifoOf (us : List OutUnit) (v : ServiceIx) (s : State) : State := s.updOm v fun o => { o with fifo := us }

/-- A FIFO unit with no not-before frame. -/
def unit (k : UnitKind) : OutUnit := { kind := k, notBefore := none, story := none }

/-- 64 entries of one glyph each, with T 6000. -/
def full (s : State) : State := queued (List.replicate 64 (entry 0 [0x41#8] 5900 6000)) s

/-- The ring story of section 7.4 with its three cues, on the runner of service 0. -/
def ring (s : State) : State :=
  let st : Story := { first := 100, count := 3, transfer := 7, ring := some 1, advance := .triggered,
                      endAction := .hold, next := none, endNotice := true }
  let cue : Cue := { text := [0x41#8], interval := 75 }
  { s with stories := [(12, st)], cues := [(100, cue), (101, cue), (102, cue)] }

/-- The runner of service 0 on story 12. -/
def running (p : Phase) (pointer remaining : Nat) (s : State) : State :=
  (ring s).updService 0 fun x =>
    { x with sel := { x.sel with mode := .script }
             runner := { x.runner with phase := p, story := some 12, pointer := pointer,
                                       remaining := remaining } }

/-- The same story TIMED, with next base 20175. -/
def onTimed (s : State) : State :=
  let timed (st : Story) : Story := { st with advance := .timed }
  State.updRunner { s with stories := s.stories.map fun (p : Nat × Story) => (p.1, timed p.2) } 0 fun r =>
    { r with nextBase := some 20175 }

/-- The open block with one word of one row, and T 10130. -/
def opened (gs : List Byte) (s : State) : State :=
  s.updCb 0 fun b =>
    { b with openBlock := { b.openBlock with
      words := [{ word := plain 0 gs 10040, target := 10130, before := [], whole := true }]
      rows := [gs] } }

/-- The last reply's code, if the queue's tail is a reply. -/
def lastCode (s : State) : Option ReplyCode :=
  match s.ci.reports.getLast? with
  | some (.reply _ _ c _) => some c
  | _ => none

/-! ### The frame port (chapter 1) -/

theorem test_step_runs_front :
    (match step { locked 9 with pending := [.frameStart 0, .powerOnReset] } with
      | .next t => (t.pfn, t.pending)
      | _ => (0, [])) = (10, [.powerOnReset]) := by decide +kernel
theorem test_word_spells_none : decodeTableWord 8 1 = none := rfl
theorem test_powerOnReset : after .powerOnReset (onAir 9) = State.reset := by decide +kernel
theorem test_resetPinAssert :
    (after .resetPinAssert { due (.flush 0) (onAir 9) with out := [[0x61#8]] }).due = [] ∧
      (after .resetPinAssert (onAir 9)).resetLow = true := by decide +kernel
theorem test_resetPinRelease :
    after .resetPinRelease { onAir 9 with resetLow := true } = State.reset := by decide +kernel
/-- Section 1.2: PFN wraps; R8: the first frame start sets it to 1. -/
theorem test_frameStart_pfn :
    (after (.frameStart 0) (locked 0xFFFFFFFF)).pfn = 0 ∧
      (after (.frameStart 0) { State.reset with pfn := 0 }).pfn = 1 := by decide +kernel
/-- Section 1.4: the real frame start at 215 ms. -/
theorem test_frameStart_restores :
    (after (.frameStart 0) { locked 7205 with ref := .freewheel, internalFrames := 5 }).ci.reports =
      [.notice (.referenceRestored 7206 5)] := by decide +kernel
/-- Section 1.4: the loss at 120 ms. -/
theorem test_lossThresholdExpiry :
    let t := after (.lossThresholdExpiry 0 ⟨[], 0⟩ ⟨[], 0⟩ ⟨[], 0⟩) (locked 7200)
    t.pfn = 7203 ∧ t.ref = .freewheel ∧ t.ci.reports = [.notice (.referenceLost 7200)] := by decide +kernel
/-- Section 1.4: the expiry at 160 ms. -/
theorem test_frameTimerExpiry :
    let t := after (.frameTimerExpiry 0 ⟨[], 0⟩) { locked 7203 with ref := .freewheel, internalFrames := 3 }
    t.pfn = 7204 ∧ t.internalFrames = 4 ∧ t.timer = .running 1 .f25 := by decide +kernel

/-- Section 10.4: the worked arbitration. -/
def arbitration : State :=
  let priority (p : Nat) (r : ServiceRecord) : ServiceRecord := { r with enabled := true, priority := p }
  let s := setService 0 (priority 1) (setService 1 (priority 0) (setService 2 (priority 2)
    (setService 3 (priority 0) (locked 5000))))
  let s := { s with slotMap := #v[some 0, some 0, some 0, some 0, none, some 1, some 1, some 1, some 2,
                                  some 2, none, none] }
  let four (u : OutUnit) : OutUnit := { u with story := some 4 }
  fifoOf [unit (.glyphs (List.replicate 8 0x45#8)), unit .roll, unit (.glyphs (List.replicate 15 0x54#8))] 0
    (fifoOf [{ four (unit .clear) with notBefore := some 5000 }, four (unit (.glyphs (List.replicate 13 0x53#8))),
        four (unit .newRow), four (unit (.glyphs (List.replicate 6 0x41#8))),
        { four (unit .showBlock) with notBefore := some 5000 }] 1
      (fifoOf [{ unit .showBlock with notBefore := some 5003 }] 2
        (fifoOf [unit (.glyphs (List.replicate 8 0x48#8)), unit .roll] 3 s)))
theorem test_carriagePoint_fifos :
    let t := after (.carriagePoint 0) arbitration
    fours.map (fun v => bytesHeld (t.service v).om) = [14, 0, 1, 9] ∧
      fours.map (fun v => (t.service v).om.splits) = [1, 1, 0, 1] := by decide +kernel
theorem test_carriagePoint_packet :
    ((after (.carriagePoint 0) arbitration).out.map fun p => (p.length, p.take 3)) =
      [(51, [0x61#8, 0x88#8, 48#8])] := by decide +kernel

/-- R135, R3: of two SHOWs whose not-before frames have been held to one value, the one left behind keeps
the timer of its block waiting. -/
theorem test_carriagePoint_waits :
    let show' : OutUnit := { unit .showBlock with notBefore := some 5000 }
    let s := (fifoOf [show', unit (.glyphs (List.replicate 60 0x41)), show'] 0 (onAir 5003)).updCb 0 fun b =>
      { b with timer := .waiting }
    let t := after (.carriagePoint 0) s
    let u := after (.carriagePoint 0) t
    (t.service 0).cb.timer = .waiting ∧ (t.service 0).cb.slips = 1 ∧
      (u.service 0).cb.timer = .running 5150 := by decide +kernel
/-- R3: the PFN of a waiting notice is held. -/
theorem test_frameStart_holds_notices :
    let s := (locked 600000).updCi fun c => { c with reports := [.notice (.storyDrained 0 12 9)] }
    (after (.frameStart 0) s).ci.reports = [.notice (.storyDrained 0 12 75713)] := by decide +kernel

/-! ### Ancillary packets and requests (chapter 11) -/

theorem test_captionPacketRemoved :
    (after (.captionPacketRemoved [0x61#8, 1#8, 0#8]) (locked 9)).out = [] ∧
      (after (.captionPacketRemoved [0x63#8, 4#8]) (locked 9)).out = [[0x63#8, 4#8]] := by decide +kernel
theorem test_controlPacketForwarded :
    (after (.controlPacketForwarded [0x62#8, 3#8, 7#8, 14#8, 0#8]) (locked 9)).out =
      [[0x62#8, 3#8, 7#8, 14#8, 0#8]] := by decide +kernel
theorem test_unknownRequest :
    (after (.unknownRequest 16#8 (req [])) (locked 9)).ci.reports = [.reply 7 16 .unknown []] := by
  decide +kernel
theorem test_setDevice :
    (after (.setDevice (req [50, 2, 89, 15])) (locked 9)).device = { fps := .f50, delay := 600, address := 14 } ∧
      lastCode (after (.setDevice (req [50, 2, 89, 15])) (locked 9)) = some .clamped := by decide +kernel
/-- R16: an enabled line takes PFN as its stamp; R50: Lest is 8 · L0, and Lmax is raised to Lmin. -/
theorem test_loadLine :
    let t := after (.loadLine (req [2, 1, 5, 7, 1, 1, 0x2A, 20, 0, 80, 0, 60, 0, 40, 0])) (locked 9)
    (t.line 2).lat.lest = 640 ∧ (t.line 2).record.lmax = 60 ∧ (t.line 2).stamp = 9 ∧
      lastCode t = some .clamped := by decide +kernel
theorem test_loadService :
    let body (l : Byte) : List Byte :=
      [1, 1, l, 0xFF, 1, 9, 2, 15, 0, 38, 0, 150, 0, 50, 0, 49, 0, 0, 0, 0, 0xC4, 3, 25]
    let t := after (.loadService (req (body 3))) (onAir 9)
    ((t.service 1).record.width, (t.service 1).record.tclear, (t.service 1).record.sofs) = (16, 50, -60) ∧
      lastCode (after (.loadService (req (body 1))) (onAir 9)) = some .inUse := by decide +kernel
/-- R129: a hold expiry whose closing is pending is still counted after LOAD_SERVICE has left POP_ON. -/
theorem test_loadService_keeps_cause :
    let s := ((opened [0x41] (popOn 9)).updCb 0 fun b =>
      { b with blocks := List.replicate 4 (.clearOnly 9 9 9)
               openBlock := { b.openBlock with closing := some .holdExpiry } })
    let s := fifoOf (List.replicate 256 (unit .roll)) 0 s
    let t := after (.loadService (req [0, 1, 0, 1, 0, 32, 2, 15, 0, 38, 0, 150, 0, 50, 1, 119, 0, 250, 11, 184, 0,
      3, 25])) s
    let u := after (.pendingClosing 0) ((fifoOf [] 0 t).updCb 0 fun b => { b with blocks := [] })
    (t.service 0).cb.openBlock.closing = some .holdExpiry ∧ (u.service 0).cb.holdExpiries = 1 := by decide +kernel
theorem test_loadSlotmap :
    (after (.loadSlotmap (req [0, 0, 1, 2, 3, 0xFF, 3, 2, 1, 0, 0, 0])) (locked 9)).pendingMap =
      some #v[some 0, some 0, some 1, some 2, some 3, none, some 3, some 2, some 1, some 0, some 0,
              some 0] := by decide +kernel
/-- Section 7.4: story 12 loaded without a ring and with N 7. -/
theorem test_loadStory :
    let t := after (.loadStory (req [12, 0, 100, 3, 0, 7, 0xFF, 0, 1, 0xFF, 1])) (locked 9)
    (storeGet 12 t.stories).map Story.transfer = some 3 ∧ lastCode t = some .clamped := by decide +kernel
theorem test_loadCue :
    let t := after (.loadCue (req [1, 255, 0x41, 0x0A, 0x42, 0, 0])) (locked 9)
    storeGet 511 t.cues = some { text := [0x41, 0x0A, 0x42], interval := 1 } ∧
      lastCode t = some .clamped := by decide +kernel
theorem test_loadGpi :
    ((after (.loadGpi (req [7, 5, 3, 1, 7])) (locked 9)).input 7).record =
      { function := .clear, target := 3, activeHigh := true, nr := 7 } := by decide +kernel
/-- Section 7.4: ARM of the ring story. -/
theorem test_arm :
    let r := ((after (.arm (req [0, 12])) (ring (onAir 9))).service 0).runner
    (r.phase, r.pointer, r.remaining) = (.armed, 0, 7) := by decide +kernel
/-- Section 7.4: triggers 3 and 7 of the ring. -/
theorem test_advance :
    let t := after (.advance (req [0])) (running .running 2 5 (onAir 9))
    let u := after (.advance (req [0])) (running .running 2 1 (onAir 9))
    ((t.service 0).runner.pointer, (t.service 0).runner.remaining) = (1, 4) ∧
      (u.service 0).runner.phase = .idle ∧
      u.ci.reports.head? = some (.notice (.storyEnd 0 12 .hold 9 none)) := by decide +kernel
/-- R104: the BUSY answer of a full queue is a refused entry. -/
theorem test_advance_busy :
    let t := after (.advance (req [0])) (full (running .running 1 5 (onAir 9)))
    (t.service 0).sched.fullRefusals = 1 ∧ lastCode t = some .busy := by decide +kernel
theorem test_cancel :
    let t := after (.cancel (req [0])) (running .running 1 5 (onAir 9))
    (t.service 0).runner.phase = .idle ∧
      t.ci.reports = [.notice (.storyDrained 0 12 9), .reply 7 10 .ok []] := by decide +kernel
/-- R99: a SELECT of LIVE suspends a running story. -/
theorem test_select :
    let t := after (.select (req [0, 3])) (running .running 1 5 (onAir 9))
    ((t.service 0).sel.mode, (t.service 0).runner.phase) = (.live, .suspended) := by decide +kernel
theorem test_clear :
    ((after (.clear (req [0])) (fifoOf [unit .roll, unit .newRow] 0 (onAir 9))).service 0).om.fifo =
      [unit .clear] := by decide +kernel
theorem test_restart :
    ((after (.restart (req [0])) (full (onAir 9))).service 0).sched.queue = [] := by decide +kernel
theorem test_softReset :
    let t := after (.softReset (req [])) (typing 0 [0x41] 8 (onAir 9))
    (t.line 0).lat.lest = 800 ∧ (t.line 0).asm.glyphs = [] ∧ t.ci.taken = 0 ∧
      t.ci.reports = [.reply 7 14 .ok []] := by decide +kernel
theorem test_query :
    (after (.query (req [4, 0, 100, 0])) (ring (onAir 9))).ci.reports =
      [.reply 7 15 .ok [1, 1, 0x41, 0, 75, 1]] := by decide +kernel
/-- R87, R154: after the fields of story 12, whether it is loaded, whether it is complete, and its holder. -/
theorem test_query_story :
    let body (s : State) : List Byte :=
      match (after (.query (req [3, 0, 12, 0])) s).ci.reports with
      | [.reply _ _ _ b] => b
      | _ => []
    body (running .armed 0 7 (onAir 9)) = [1, 0, 100, 3, 0, 7, 1, 1, 0, 1, 0, 1, 1, 1, 1, 0] ∧
      body (locked 9) = [0, 0, 0, 0] := by decide +kernel

/-! ### The steno lines and the word assemblers (chapters 2 and 3) -/

/-- Section 2.6: the sixth byte, with a framing error. -/
theorem test_characterReceived_substitutes :
    let t := after (.characterReceived 0 0x49 false false) (typing 0 [0x4D] 8 (onAir 9))
    (t.line 0).asm.glyphs = keys [0x4D] ++ [{ glyph := 0x23, errored := true }] ∧
      (t.line 0).framingErrors = 1 ∧ (t.line 0).receiver = .waitHigh := by decide +kernel
/-- Section 3.7: the space after "THE" at 5000. -/
theorem test_characterReceived_completes :
    ((after (.characterReceived 0 0x20 false true) (typing 0 [0x54, 0x48, 0x45] 5000 (onAir 5000))).service
      0).sched.queue = [entry 0 [0x54, 0x48, 0x45] 5000 5013] := by decide +kernel
theorem test_transmitComplete :
    let s := (onAir 9).updLine 0 fun x =>
      { x with xoff := true, sending := some { byte := .xoff, rate := .r9600, dataBits := .eight,
                                               parity := .none } }
    let x := (after (.transmitComplete 0) s).line 0
    x.sending = none ∧ x.lastSent = .xoff := by decide +kernel
/-- Section 3.6: frame start 4012, with the stamp at 4000; nothing at 4011. -/
theorem test_flushDelayExpiry :
    let s (n : Nat) := due (.flush 0) (typing 0 [0x41, 0x42] 4000 ((onAir n).updLine 0 fun x =>
      { x with stamp := 4000 }))
    ((after (.flushDelayExpiry 0) (s 4012)).line 0).asm.completed = 1 ∧
      ((after (.flushDelayExpiry 0) (s 4011)).line 0).asm.completed = 0 := by decide +kernel
/-- Section 3.8: the retry of frame start 6009 finds the queue full. -/
theorem test_heldWordRetry :
    let s := due (.retry 0) (full ((onAir 6009).updAsm 0 fun a =>
      { a with held := some { item := .word (plain 0 [0x4E] 6008), on := 0 } }))
    let t := after (.heldWordRetry 0) s
    (t.line 0).asm.held.isSome ∧ (t.service 0).sched.fullRefusals = 1 := by decide +kernel
theorem test_startBitDetected :
    ((after (.startBitDetected 0 false) (onAir 9)).line 0).receiver =
        .timing ((onAir 9).line 0).record ∧
      ((after (.startBitDetected 0 true) (onAir 9)).line 0).receiver = .watching := by decide +kernel
/-- R16: a character whose start bit fell on a disabled line is not received, though LOAD_LINE has enabled
the line before it ends. -/
theorem test_characterReceived_passedOver :
    let s := after (.startBitDetected 2 false) (onAir 9)
    let s := after (.loadLine (req [2, 1, 3, 8, 0, 0, 0x23, 12, 0, 100, 0, 12, 0, 250, 1])) s
    let x := (after (.characterReceived 2 0x41 false true) s).line 2
    x.record.enabled = true ∧ x.received = 0 ∧ x.asm.glyphs = [] ∧ x.receiver = .watching := by decide +kernel
theorem test_wireSeenHigh :
    ((after (.wireSeenHigh 0) ((onAir 9).updLine 0 fun x => { x with receiver := .waitHigh })).line
      0).receiver = .watching := by decide +kernel

/-! ### Studio inputs, onsets and source selection (chapters 4 to 6) -/

/-- Section 5.5: frame start 8006. -/
theorem test_gpiEdgeAccepted :
    let s := due (.edge 3) ((onAir 8006).updInput 3 fun x =>
      { x with record := { x.record with function := .onset }, accepted := some true, run := 3 })
    let t := after (.gpiEdgeAccepted 3) s
    (t.service 0).onsets.frames = [8004] ∧ (t.input 3).asserts = 1 := by decide +kernel
/-- R53: an onset expires when it is older than 1023 frames. -/
theorem test_onsetExpiry :
    let s := due (.onsetExpiry 0) ((onAir 2024).updOnsets 0 fun x => { x with frames := [1000, 1001] })
    ((after (.onsetExpiry 0) s).service 0).onsets.frames = [1001] := by decide +kernel
/-- Section 6.4: frame start 10090, step 1, with Fs 100. -/
theorem test_standbyAgeOut :
    let s := due (.ageOut 0) ((setService 0 (fun r => { r with fs := 100 }) (onAir 10090)).updSel 0 fun x =>
      { x with standby := [plain 1 [0x41] 9990, plain 1 [0x42] 10040] })
    let x := ((after (.standbyAgeOut 0) s).service 0).sel
    x.standby = [plain 1 [0x42] 10040] ∧ x.standbyExpired = 1 := by decide +kernel
/-- Section 6.5: frame start 30500, with no backup line, Fs 250 and Fh 500. -/
theorem test_stenographerHoldExpiry :
    let s := setService 0 (fun r => { r with backup := none, fs := 250, fh := 500 }) (onAir 30500)
    let s := (s.updSel 0 fun x => { x with hold := some 30000 }).updLine 0 fun x => { x with stamp := 30000 }
    let t := after (.stenographerHoldExpiry 0) { s with due := [.holdEnd 0, .silence 0] }
    (t.service 0).sel.hold = none ∧ t.ci.reports = [.notice (.sourceSilent 0 0 500)] := by decide +kernel
/-- Section 6.4: frame start 10100, step 3. -/
theorem test_silenceLimitReached :
    let s := setService 0 (fun r => { r with fs := 100 }) (onAir 10100)
    let s := s.updLat 1 fun x => { x with lest := 760 }
    let s := (s.updLine 0 fun x => { x with stamp := 10000 }).updLine 1 fun x => { x with stamp := 10095 }
    let s := (s.updSel 0 fun x => { x with standby := [plain 1 [0x41] 10040, plain 1 [0x42] 10090] }).updSched 0
      fun q => { q with lastLeft := some 10011 }
    let t := after (.silenceLimitReached 0) (due (.silence 0) s)
    (t.service 0).sched.queue = [entry 1 [0x41] 10040 10101, entry 1 [0x42] 10090 10101] ∧
      t.ci.reports = [.notice (.failover 0 0 1 10100 2 0)] := by decide +kernel

/-- R82: a MODE deassert at frame start n leaves the silence check to frame start n + 1. -/
theorem test_silenceLimitReached_waits :
    let s := setService 0 (fun r => { r with backup := none, fs := 100 }) (running .armed 0 7 (onAir 9000))
    let s := after (.gpiEdgeAccepted 3) (due (.edge 3) (s.updInput 3 fun x =>
      { x with record := { x.record with function := .mode }, accepted := some false, run := 3 }))
    let t := after (.silenceLimitReached 0) (due (.silence 0) s)
    let u := after (.silenceLimitReached 0) (after (.frameStart 0) t)
    (t.service 0).sel.mode = .live ∧ t.ci.reports = [] ∧
      u.ci.reports = [.notice (.sourceSilent 0 0 9001)] := by decide +kernel

/-! ### Runners and releases (chapters 7 and 8) -/

/-- Section 7.5: frame start 20075 with next base 20175; nothing at 20074. -/
theorem test_timedIssue :
    let timed (n : Nat) : State := onTimed (running .running 1 3 (onAir n))
    let r (n : Nat) := ((after (.timedIssue 0) (due (.timed 0) (timed n))).service 0).runner
    ((r 20075).remaining, (r 20075).lastCueT, (r 20075).nextBase) = (2, some 20175, some 20250) ∧
      (r 20074).remaining = 3 := by decide +kernel
/-- Section 8.3: IN is released and THE stalls at frame start 7000. -/
theorem test_rollUpRelease :
    let s := fifoOf (List.replicate 250 (unit .roll)) 0
      (queued [entry 0 [0x49, 0x4E] 6900 7000, entry 0 [0x54, 0x48, 0x45] 6901 7000] (onAir 7000))
    let s := s.updCb 0 fun b => { b with form := .rolling, fill := 10 }
    let x := (after (.rollUpRelease 0) (due (.serve 0) s)).service 0
    (bytesHeld x.om, x.sched.queue.length, x.cb.fill) = (255, 1, 13) ∧
      (x.sched.releases, x.sched.stalls) = (1, 1) := by decide +kernel

/-! ### Captions (chapter 9) -/

/-- Section 9.4: SAY joins POLICE. -/
theorem test_popOnTake :
    let s := queued [entry 0 [0x53, 0x41, 0x59] 10042 10132]
      (opened [0x50, 0x4F, 0x4C, 0x49, 0x43, 0x45] (popOn 10042))
    ((after (.popOnTake 0) s).service 0).cb.openBlock.rows =
      [[0x50, 0x4F, 0x4C, 0x49, 0x43, 0x45, 0x20, 0x53, 0x41, 0x59]] := by decide +kernel
/-- R138: a word that does not fit is taken before the hold expiry of its frame start; the expiry closes the
block that the word has begun. -/
theorem test_popOnTake_meets_expiry :
    let s := setService 0 (fun r => { r with rows := 1 }) (popOn 10180)
    let s := due (.blockHold 0) (queued [entry 0 (List.replicate 32 0x42) 10150 10200] (opened [0x41] s))
    let t := after (.popOnTake 0) s
    let u := after (.blockHoldExpiry 0) t
    let b (x : State) := (x.service 0).cb
    ((b t).blocksClosed, (b t).holdExpiries, (b t).openBlock.rows.length) = (1, 0, 1) ∧
      ((b u).blocksClosed, (b u).holdExpiries, (b u).openBlock.rows.length) = (2, 1, 0) := by decide +kernel
theorem test_pendingClosing :
    let s := (opened [0x50] (popOn 10180)).updCb 0 fun b =>
      { b with openBlock := { b.openBlock with closing := some .ordinary } }
    let x := (after (.pendingClosing 0) s).service 0
    x.cb.blocksClosed = 1 ∧ x.om.fifo.length = 3 := by decide +kernel
theorem test_cueBlockFormation :
    let s := (onAir 20040).updCb 0 fun b =>
      { b with cue := some { story := 12, index := 100, target := 20100, groups := [[[0x41]], [[0x42]]] } }
    let x := (after (.cueBlockFormation 0) s).service 0
    x.cb.cue = none ∧ x.cb.shown = some (20138, 38) := by decide +kernel
/-- Section 9.4: frame start 10180: "POLICE SAY" closes as B2, with Sprev 10100 and durprev 74. -/
theorem test_blockHoldExpiry :
    let s := (opened (List.replicate 10 0x50) (popOn 10180)).updCb 0 fun b =>
      { b with form := .block, shown := some (10100, 74) }
    let b := ((after (.blockHoldExpiry 0) (due (.blockHold 0) s)).service 0).cb
    b.shown = some (10181, 38) ∧ b.timer = .waiting ∧ b.holdExpiries = 1 := by decide +kernel
/-- Section 9.4: B1 costs 50 bytes when the form is BLOCK. -/
theorem test_blockAppend :
    let b1 : TextBlock :=
      { rows := [List.replicate 32 0x41, List.replicate 12 0x42], tFirst := 10100, closed := 10026,
        dur := 74, showFrame := 10100, story := none, trailing := none }
    let s := (popOn 10027).updCb 0 fun b => { b with form := .block, blocks := [.text b1] }
    let x := (after (.blockAppend 0) (due (.append 0) s)).service 0
    bytesHeld x.om = 50 ∧ x.cb.blocks = [] ∧ x.cb.shown = some (10100, 74) := by decide +kernel
/-- R126: Tclear 375 frames after the last release. -/
theorem test_staleClear :
    let s (n : Nat) := due (.stale 0) ((onAir n).updCb 0 fun b =>
      { b with form := .rolling, fill := 5, lastRelease := some 1000 })
    ((after (.staleClear 0) (s 1375)).service 0).om.fifo = [unit .clear] ∧
      ((after (.staleClear 0) (s 1374)).service 0).om.fifo = [] := by decide +kernel
/-- Section 9.4: frame start 10331. -/
theorem test_dmaxClear :
    let s := due (.dmax 0) ((popOn 10331).updCb 0 fun b => { b with form := .block, timer := .running 10331 })
    let x := (after (.dmaxClear 0) s).service 0
    x.om.fifo = [unit .clear] ∧ x.cb.timer = .idle := by decide +kernel
theorem test_drainComplete :
    let t := after (.drainComplete 0) (due (.drain 0) (running .draining 0 0 (onAir 9)))
    (t.service 0).runner.phase = .idle ∧ t.ci.reports = [.notice (.storyDrained 0 12 9)] := by decide +kernel
/-- Section 4.3: the four samples. -/
theorem test_four_samples :
    [96, 90, 84, 83].foldl (fun ls s => ls ++ [updateLest (ls.getLast?.getD 0) s]) [640] =
      [640, 656, 664, 665, 664] := by decide +kernel

/-! ### Witnesses: states and operands that meet the hypotheses of each statement -/

/-- A ready state takes a request with this body by its own address. -/
def Met (kind : Byte) (body : List Byte) (s : State) : Prop :=
  Ready s ∧ Arrives kind (req body) s s ∧ HasBody (req body) body

theorem met (kind : Byte) (body : List Byte) (s : State)
    (h : (s.resetLow, s.ref, s.due, s.device.address) = (false, .locked, [], 0) := by decide +kernel)
    (hb : (req body).len.toNat = body.length := by decide +kernel) : Met kind body s := by
  simp only [Prod.mk.injEq] at h
  exact ⟨⟨h.1, h.2.1, h.2.2.1⟩, .inl ⟨by rw [h.2.2.2]; rfl, rfl⟩, hb, List.prefix_rfl⟩

theorem settled (s : State) (h : react s = none := by decide +kernel) : Settled s := h

theorem formed (s : State) (h : s.services = Quad.fill resetService) (v : ServiceIx) :
    s.service v = resetService := by
  rw [State.service, h]; fin_cases v <;> rfl

theorem formedLine (s : State) (h : s.lines = Quad.fill resetLine) (l : LineIx) :
    s.line l = resetLine := by
  rw [State.line, h]; fin_cases l <;> rfl

theorem witness_StepRunsFrontCommand :
    ({ locked 9 with pending := [.wireSeenHigh 0] }).pending = [.wireSeenHigh 0] ∧
      ((locked 9).pending = [] ∧ (locked 9).due = []) ∧
      (let s := { locked 9 with resetLow := true }; s.pending = [] ∧ s.resetLow = true) ∧
      (let s := due (.edge 7) (locked 9); s.pending = [] ∧ s.due = [.edge 7] ∧ s.resetLow = false) := by
  decide +kernel
theorem witness_EventsNotTaken :
    ({ locked 9 with resetLow := true }).resetLow = true ∧ (Instr.wireSeenHigh 0).isReset = false ∧
      State.reset.ref ≠ .locked ∧ (Instr.softReset (req [])).carriesPacket = true ∧
      (locked 9).ref ≠ .freewheel ∧ (locked 9).due = [] := by decide +kernel

theorem witness_CapacitiesKept : WithinCapacity (locked 9) ∧ step (locked 9) = .next (locked 9) := by
  refine ⟨⟨fun l => ?_, fun v => ?_, ?_⟩, rfl⟩
  · rw [formedLine _ rfl]; exact ⟨by decide, by decide, trivial⟩
  · rw [formed _ rfl]
    exact ⟨by decide, nofun, by decide, by decide, nofun, nofun, nofun, by decide, by decide⟩
  · show 0 ≤ 16
    decide
theorem witness_TablesKeepTheirLaws :
    (InRange (locked 9) ∧ StoreFormed (locked 9) ∧ LinesIsolated (locked 9)) ∧
      step (locked 9) = .next (locked 9) := by
  refine ⟨⟨⟨by decide, by decide, fun l => ?_, fun v => ?_, by decide +kernel⟩, ⟨rfl, rfl, nofun⟩, ?_⟩, rfl⟩
  · rw [formedLine _ rfl]; exact ⟨by decide, by decide, by decide, by decide, by decide⟩
  · rw [formed _ rfl]
    exact ⟨by decide, by decide, by decide, by decide, by decide, by decide, .inr (by decide),
      .inr (by decide), by decide, by decide, by decide, by decide⟩
  · intro u v l h
    rw [formed _ rfl] at h
    cases h
theorem witness_AssemblersKeepTheirForm :
    AssemblersFormed (locked 9) ∧ step (locked 9) = .next (locked 9) := by
  refine ⟨fun l => ?_, rfl⟩
  rw [formedLine _ rfl]
  exact ⟨by decide, nofun, nofun, nofun, nofun⟩
theorem witness_RunnersKeepTheirForm :
    RunnersFormed (locked 9) ∧ step (locked 9) = .next (locked 9) := by
  refine ⟨fun v => ?_, rfl⟩
  rw [formed _ rfl]
  exact ⟨fun _ => ⟨rfl, rfl, rfl, rfl, rfl, rfl⟩, fun h => absurd rfl h, nofun, nofun⟩
theorem witness_FlowControlKept :
    (TransmittersFollow (locked 9) ∧ MarksFollowFlow (locked 9)) ∧ step (locked 9) = .next (locked 9) := by
  refine ⟨⟨fun _ l _ => ?_, fun l _ => ?_⟩, rfl⟩ <;> rw [formedLine _ rfl] <;> rfl
theorem witness_FramePortMovesOnly :
    exec (.carriagePoint 0) { locked 9 with resetLow := true } = .next { locked 9 with resetLow := true } ∧
      (Instr.carriagePoint 0).movesFrame = false ∧ (Instr.carriagePoint 0).resetsPort = false ∧
      (locked 9).ref ≠ .seeking := ⟨rfl, by decide, by decide, by decide⟩
theorem witness_TablesChangeByPacketsOnly :
    exec (.flushDelayExpiry 3) (locked 9) = .next (locked 9) ∧
      (Instr.flushDelayExpiry 3).isReset = false ∧ (Instr.flushDelayExpiry 3).carriesPacket = false :=
  ⟨rfl, rfl, rfl⟩
theorem witness_PastFramesHeld :
    frameDiff 7 (frame 524295) = 524288 ∧ frameDiff 7 (frame 524296) = 524289 := by decide +kernel
theorem witness_FrameStartTaken :
    State.reset.resetLow = false ∧ WorkDone State.reset ∧ WorkDone (locked 9) ∧
      WorkDone { locked 9 with ref := .freewheel } := ⟨rfl, rfl, rfl, rfl⟩
theorem witness_InternalFrameTaken :
    let s := { locked 0xFFFFFFFF with ref := .freewheel }
    s.resetLow = false ∧ s.ref = .freewheel ∧ WorkDone s := ⟨rfl, rfl, rfl⟩
theorem witness_ReferenceLost :
    let s := (locked 9).updCi fun c => { c with reports := List.replicate 15 (.reply 0 1 .ok []) }
    s.resetLow = false ∧ s.ref = .locked ∧ WorkDone s ∧ s.ci.reports.length < 16 :=
  ⟨rfl, rfl, rfl, by decide +kernel⟩
theorem witness_CarriagePointTaken : Ready arbitration := ⟨rfl, rfl, rfl⟩
/-- What the services give in round 2 exists for every outcome of round 1. -/
theorem second_exists (n : Frame) (first : ServiceIx → Taken) (room : Nat) :
    ∃ second : ServiceIx → Taken, ∀ earlier v later, [1, 3, 0, 2] = earlier ++ v :: later →
      second v = takeUnits n (first v).rest (room - (earlier.map fun u => (second u).used).sum) := by
  let t1 := takeUnits n (first 1).rest room
  let t3 := takeUnits n (first 3).rest (room - t1.used)
  let t0 := takeUnits n (first 0).rest (room - (t1.used + t3.used))
  let t2 := takeUnits n (first 2).rest (room - (t1.used + (t3.used + t0.used)))
  refine ⟨fun v => match v with | 0 => t0 | 1 => t1 | 2 => t2 | 3 => t3, fun earlier v later h => ?_⟩
  rcases earlier with _ | ⟨a, _ | ⟨b, _ | ⟨c, _ | ⟨d, es⟩⟩⟩⟩ <;> simp at h
  · obtain ⟨rfl, -⟩ := h; rfl
  · obtain ⟨rfl, rfl, -⟩ := h; rfl
  · obtain ⟨rfl, rfl, rfl, -⟩ := h; rfl
  · obtain ⟨rfl, rfl, rfl, rfl, -⟩ := h; rfl
/-- Section 10.4: the services in their order for round 2, and what each then gives. -/
theorem witness_PayloadIsFull :
    let s := arbitration
    let level (v : ServiceIx) := (s.service v).record.priority
    let share (v : ServiceIx) : Nat :=
      if (s.service v).record.enabled then 4 * s.slotMap.toList.count (some v) else 0
    let first (v : ServiceIx) : Taken := takeUnits s.pfn (s.service v).om.fifo (share v)
    let spent := ([0, 1, 2, 3].map fun u => (first u).used).sum
    (∀ v, level v ≤ 3) ∧ [1, 3, 0, 2].Perm [(0 : ServiceIx), 1, 2, 3] ∧
      [1, 3, 0, 2].Pairwise (fun u v => level u < level v ∨ level u = level v ∧ u < v) ∧
      ∃ second : ServiceIx → Taken, ∀ earlier v later, [1, 3, 0, 2] = earlier ++ v :: later →
        second v = takeUnits s.pfn (first v).rest
          (48 - spent - (earlier.map fun u => (second u).used).sum) :=
  ⟨by decide +kernel, by decide, by decide +kernel, second_exists _ _ _⟩
theorem witness_RoundTakesHeads :
    let gs : List OutUnit := [unit (.glyphs (List.replicate 15 0x54))]
    (takeUnits 9 gs 5).split = true ∧ (takeUnits 9 gs 17).split = false ∧ (takeUnits 9 gs 2).split = false := by
  decide +kernel
theorem witness_PacketsFiltered :
    (15#8, Instr.query) ∈ requests ∧ Ready (locked 9) ∧ ForOthers { req [] with addr := 14 } (locked 9) ∧
      [0x62#8, 0#8, 1#8, 14#8].head? = some 0x62#8 ∧ [0x62#8, 0#8, 1#8, 14#8].length < 5 ∧
      (0x63#8 : Byte) ≠ 0x61#8 ∧ (0x63#8 : Byte) ≠ 0x62#8 :=
  ⟨by simp [requests], ⟨rfl, rfl, rfl⟩, by constructor <;> decide, rfl, by decide, by decide, by decide⟩
theorem witness_WorkPrecedesPackets :
    let s := { locked 9 with due := [.flush 0, .holdEnd 1] }
    s.resetLow = false ∧ s.ref = .locked ∧ s.ref ≠ .seeking ∧ (1#8, Instr.setDevice) ∈ requests ∧
      (Instr.flushDelayExpiry 0).work = some (.flush 0) ∧ s.due = .flush 0 :: [.holdEnd 1] ∧
      (.ageOut 1 ∉ s.due ∧ .silence 1 ∉ s.due) ∧ { s with ref := .freewheel }.ref = .freewheel :=
  ⟨rfl, rfl, by decide, by simp [requests], rfl, rfl, by decide, rfl⟩
theorem witness_BadPacketsRefused :
    (1#8, Instr.setDevice, 4) ∈ fixedLengths ∧ Met 1#8 [25, 0, 0] (locked 9) ∧
      (req [25, 0, 0]).len.toNat ≠ 4 ∧ Met 6#8 [0, 1, 0, 9] (locked 9) ∧ (req [0, 1, 0, 9]).len.toNat < 5 ∧
      120 < (req (List.replicate 121 0)).len.toNat ∧ Met 16#8 [] (locked 9) ∧ 15 < (16#8 : Byte).toNat :=
  ⟨by simp [fixedLengths], met _ _ _, by decide, met _ _ _, by decide, by decide,
    met _ _ _, by decide⟩

/-- By address 15: the packet is carried out and goes on. -/
theorem witness_Arrives_everywhere :
    let p := { req [25, 2, 88, 14] with addr := 15 }
    Arrives 1#8 p (locked 9) (passed (packetBytes 1#8 p) (locked 9)) :=
  .inr ⟨rfl, by decide, rfl⟩
theorem witness_SetDeviceTaken :
    Met 1#8 [25, 2, 88, 14] (locked 9) ∧ Met 1#8 [60, 2, 89, 15] (locked 9) ∧
      Met 1#8 [26, 0, 0, 0] (locked 9) ∧ (26#8 : Byte).toNat ∉ [24, 25, 30, 50, 60] :=
  ⟨met _ _ _, met _ _ _, met _ _ _, by decide⟩
theorem witness_LoadLineTaken :
    Met 2#8 [byte1 3, flagByte true, rateByte .r38400, dataBitsByte .seven, parityByte .even, flagByte true,
        0x7E, 250, 1, 255, 1, 255, 1, 255, flagByte false] (locked 9) ∧
      0x20 ≤ (0x7E#8 : Byte).toNat ∧ (0x7E#8 : Byte).toNat ≤ 0x7E ∧
      Met 2#8 [4, 1, 5, 7, 2, 1, 0x20, 1, 0, 0, 0, 0, 0, 0, 1] (locked 9) ∧ 4 ≤ (4#8 : Byte).toNat ∧
      Met 2#8 [3, 1, 6, 9, 3, 2, 0x7F, 1, 0, 0, 0, 0, 0, 0, 2] (locked 9) ∧ 5 < (6#8 : Byte).toNat :=
  ⟨met _ _ _, by decide, by decide, met _ _ _, by decide, met _ _ _, by decide⟩
theorem witness_ServiceRecordRead :
    4 ≤ (4#8 : Byte).toNat ∧ (3#8 : Byte).toNat < 4 ∧ 1 < (2#8 : Byte).toNat ∧ (1#8 : Byte).toNat ≤ 1 ∧
      (0xFF#8 : Byte) = 0xFF#8 ∧ (3#8 : Byte) ≠ 2#8 := by decide
/-- A LOAD_SERVICE body for service 0: enabled or not, with its two lines and display mode. -/
def serviceBody (en pri bak disp : Byte) : List Byte :=
  [0, en, pri, bak, disp, 32, 2, 15, 0, 38, 0, 150, 0, 50, 1, 119, 0, 250, 11, 184, 0, 3, 25]
theorem parsed (en pri bak disp : Byte) (r : ServiceRecord)
    (h : (match parseService (serviceBody en pri bak disp) with
      | .ok (v, r', c) => decide (v = 0 ∧ r' = r ∧ c = false)
      | .error _ => false) = true) : parseService (serviceBody en pri bak disp) = .ok (0, r, false) := by
  revert h
  cases parseService (serviceBody en pri bak disp) with
  | error _ => simp
  | ok x => obtain ⟨v, r', c⟩ := x; simp only [decide_eq_true_eq]; rintro ⟨rfl, rfl, rfl⟩; rfl
theorem witness_LoadServiceTaken :
    let on := { resetServiceRecord with enabled := true, primary := some 0, backup := some 1 }
    (Met 3#8 (serviceBody 1 0 1 0) (onAir 9) ∧ (serviceBody 1 0 1 0).length = 23 ∧
      parseService (serviceBody 1 0 1 0) = .ok (0, on, false) ∧ ((onAir 9).service 0).record = on) ∧
    (Met 3#8 (serviceBody 1 0 1 0) (locked 9) ∧ ((locked 9).service 0).record.enabled = false) ∧
    parseService (serviceBody 1 0 2 0) = .ok (0, { on with backup := some 2 }, false) ∧
    parseService (serviceBody 0 0 1 0) = .ok (0, { on with enabled := false }, false) ∧
    parseService (serviceBody 1 0 0 0) = .error .badValue ∧
    hasLine (((onAir 9).updService 1 fun _ => (onAir 9).service 0).service 1) 1 = true := by
  refine ⟨⟨met _ _ _, rfl, parsed _ _ _ _ _ ?_, ?_⟩, ⟨met _ _ _, ?_⟩,
    parsed _ _ _ _ _ ?_, parsed _ _ _ _ _ ?_, rfl, ?_⟩ <;> decide +kernel
theorem witness_LoadSlotmapTaken :
    Met 4#8 ((#v[some 0, some 3, none, none, none, none, none, none, none, none, none, none] :
        SlotMap).toList.map lineByte) (locked 9) ∧
      Met 4#8 [4, 0, 0, 0, 0, 0, 0, 0, 0, 0, 0, 0] (locked 9) ∧ 4 ≤ (4#8 : Byte).toNat ∧ (4#8 : Byte) ≠ 0xFF#8 :=
  ⟨met _ _ _, met _ _ _, by decide, by decide⟩
/-- The clauses in their order: a story above 63, a held story, a first cue too far, a count of 65, and the
last story with the last cue. -/
theorem witness_LoadStoryTaken :
    Met 5#8 [64, 0, 0, 1, 0, 1, 0xFF, 0, 0, 0xFF, 0] (locked 9) ∧
      Met 5#8 [12, 0, 0, 1, 0, 1, 0xFF, 0, 0, 0xFF, 0] (running .armed 0 7 (onAir 9)) ∧
      (∃ v, ((running .armed 0 7 (onAir 9)).service v).runner.phase ≠ .idle ∧
        ((running .armed 0 7 (onAir 9)).service v).runner.story = some 12) ∧
      Met 5#8 [63, 1, 255, 2, 0, 1, 0xFF, 0, 0, 0xFF, 0] (locked 9) ∧ 512 < 511 + 2 ∧
      Met 5#8 [63, 0, 0, 65, 0, 1, 0xFF, 0, 0, 0xFF, 0] (locked 9) ∧ 64 < (65#8 : Byte).toNat ∧
      Met 5#8 [63, 1, 255, 1, 0, 0, 0, 1, 2, 63, 1] (locked 9) ∧
      (∀ v, ((locked 9).service v).runner.phase = .idle) :=
  ⟨met _ _ _, met _ _ _, by decide +kernel, met _ _ _, by decide,
    met _ _ _, by decide, met _ _ _, by decide +kernel⟩
/-- A cue above 511, a held cue, a text with no glyph, a text that begins with a row break, and the last
cue with the longest interval. -/
theorem witness_LoadCueTaken :
    Met 6#8 [2, 0, 0x41, 0, 1] (locked 9) ∧ 511 < 256 * (2#8 : Byte).toNat + 0 ∧
      Met 6#8 [0, 102, 0x41, 0, 1] (running .armed 0 7 (onAir 9)) ∧
      ((running .armed 0 7 (onAir 9)).service 0).runner.story = some 12 ∧
      (storeGet 12 (ring (onAir 9)).stories).map (fun st => (st.first, st.count)) = some (100, 3) ∧
      Met 6#8 [1, 255, 0x0A, 0, 1] (locked 9) ∧ [0x0A#8].countP isCueGlyph = 0 ∧
      Met 6#8 [1, 255, 0x0A, 0x41, 0, 1] (locked 9) ∧
      Met 6#8 ([1, 255] ++ List.replicate 96 0x41#8 ++ [5, 220]) (locked 9) ∧
      (List.replicate 96 0x41#8).countP isCueGlyph = 96 ∧
      (∀ v, ((locked 9).service v).runner.phase = .idle) :=
  ⟨met _ _ _, by decide, met _ _ _, by decide +kernel, by decide +kernel,
    met _ _ _, by decide, met _ _ _, met _ _ _, by decide, by decide +kernel⟩
theorem witness_ScriptStoreReads :
    (1 : Nat) ≠ 0 ∧ storeWf (storePut 63 7 (storePut 0 5 [])) = true := by decide
theorem witness_LoadGpiTaken :
    Met 7#8 [byte1 7, functionByte .clear, byte1 3, flagByte true, 8] (locked 9) ∧
      Met 7#8 [8, 5, 3, 1, 7] (locked 9) ∧ 8 ≤ (8#8 : Byte).toNat ∧ Met 7#8 [7, 6, 4, 2, 7] (locked 9) ∧
      5 < (6#8 : Byte).toNat :=
  ⟨met _ _ _, met _ _ _, by decide, met _ _ _, by decide⟩
theorem witness_ArmTaken :
    Met 8#8 [4, 63] (onAir 9) ∧ Met 8#8 [3, 64] (onAir 9) ∧
      (Met 8#8 [byte1 3, 12] (ring (onAir 9)) ∧ ((ring (onAir 9)).service 3).record.enabled = false) ∧
      (Met 8#8 [byte1 0, 12] (running .draining 0 0 (onAir 9)) ∧
        ((running .draining 0 0 (onAir 9)).service 0).runner.phase ≠ .idle) ∧
      (Met 8#8 [byte1 0, 63] (ring (onAir 9)) ∧ storeGet 63 (ring (onAir 9)).stories = none) ∧
      (Met 8#8 [byte1 0, 12] (ring (onAir 9)) ∧ ((ring (onAir 9)).service 0).record.enabled = true ∧
        ((ring (onAir 9)).service 0).runner.phase = .idle ∧
        (∃ st, storeGet 12 (ring (onAir 9)).stories = some st ∧
          ∀ j < st.count, (storeGet (st.first + j) (ring (onAir 9)).cues).isSome) ∧
        ∀ u, ((ring (onAir 9)).service u).runner.phase = .idle) ∧
      (let s := (ring (onAir 9)).updRunner 1 fun r => { r with phase := .armed, story := some 12 };
        Met 8#8 [byte1 0, 12] s ∧ ∃ u, u ≠ 0 ∧ (s.service u).runner.phase ≠ .idle ∧
          (s.service u).runner.story = some 12) :=
  ⟨met _ _ _, met _ _ _, ⟨met _ _ _, by decide +kernel⟩,
    ⟨met _ _ _, by decide +kernel⟩, ⟨met _ _ _, by decide +kernel⟩,
    ⟨met _ _ _, by decide +kernel, by decide +kernel, ⟨_, rfl, by decide +kernel⟩,
      by decide +kernel⟩, ⟨met _ _ _, by decide +kernel⟩⟩
theorem witness_AdvanceTaken :
    Met 9#8 [4] (onAir 9) ∧ (Met 9#8 [byte1 3] (onAir 9) ∧ ((onAir 9).service 3).runner.phase = .idle) ∧
      (let s := (running .armed 0 7 (onAir 9)).updSel 0 fun x => { x with mode := .live };
        Met 9#8 [byte1 0] s ∧ (s.service 0).runner.phase = .armed ∧ (s.service 0).sel.mode = .live) ∧
      (let s := full (running .running 1 6 (onAir 9));
        Met 9#8 [byte1 0] s ∧ (s.service 0).sel.mode = .script ∧ 64 ≤ (s.service 0).sched.queue.length) ∧
      (let s := running .armed 0 7 (onAir 9);
        Met 9#8 [byte1 0] s ∧ (issueCue 0 s.pfn s).isSome) :=
  ⟨met _ _ _, ⟨met _ _ _, by decide +kernel⟩, ⟨met _ _ _, by decide +kernel⟩,
    ⟨met _ _ _, by decide +kernel⟩, ⟨met _ _ _, by decide +kernel⟩⟩
/-- With cues left, and with the last cue of a story that holds, goes live or chains to itself or fails. -/
theorem witness_CueIssued :
    let s (remaining : Nat) := running .running 2 remaining (onAir 9)
    ((s 2).service 0).runner.story = some 12 ∧
      (storeGet 12 (s 2).stories).map (fun st => (st.first, st.endAction)) = some (100, .hold) ∧
      (storeGet (100 + 2) (s 2).cues).isSome ∧ ((s 2).service 0).sched.queue.length < 64 ∧
      2 ≤ ((s 2).service 0).runner.remaining ∧ ((s 1).service 0).runner.remaining ≤ 1 ∧
      storyComplete (s 1) 12 = true ∧ heldElsewhere (s 1) 0 12 = false ∧ storyComplete (s 1) 63 = false := by
  decide +kernel
theorem witness_CancelTaken :
    (let s := queued [{ body := .cue 12 101 [0x41] 9, target := 110 }] (running .running 1 6 (onAir 9));
      Met 10#8 [byte1 0] s ∧ (s.service 0).sched.queue.any (isCueOf 12) = true) ∧
    Met 10#8 [4] (onAir 9) ∧ Met 10#8 [byte1 0] (onAir 9) ∧ ((onAir 9).service 0).runner.phase = .idle ∧
      Met 10#8 [byte1 0] (running .armed 0 7 (onAir 9)) ∧ Met 10#8 [byte1 0] (running .draining 0 0 (onAir 9)) ∧
      (let s := running .running 1 6 (onAir 9);
        Met 10#8 [byte1 0] s ∧ (s.service 0).runner.phase = .running ∧ (s.service 0).runner.story = some 12 ∧
          ∀ u ∈ (s.service 0).om.fifo, u.story ≠ some 12) ∧
      (let s := fifoOf [{ unit .showBlock with story := some 12 }] 0 (running .suspended 1 6 (onAir 9));
        Met 10#8 [byte1 0] s ∧ ¬ ∀ u ∈ (s.service 0).om.fifo, u.story ≠ some 12) :=
  ⟨⟨met _ _ _, by decide +kernel⟩, met _ _ _, met _ _ _, by decide +kernel, met _ _ _, met _ _ _,
    ⟨met _ _ _, by decide +kernel⟩, ⟨met _ _ _, by decide +kernel⟩⟩
theorem witness_SelectTaken :
    (Settled (onAir 9) ∧ Met 11#8 [4, 0] (onAir 9)) ∧ Met 11#8 [byte1 3, 0] (onAir 9) ∧
      ((onAir 9).service 3).record.enabled = false ∧ Met 11#8 [byte1 0, 4] (onAir 9) ∧
      (Met 11#8 [byte1 0, 2] (onAir 9) ∧ ((onAir 9).service 0).sel.mode = .live) ∧
      (let s := running .running 1 6 (onAir 9);
        Settled s ∧ Met 11#8 [byte1 0, 3] s ∧ (s.service 0).sel.mode = .script) ∧
      (Met 11#8 [byte1 0, 1] (onAir 9) ∧ ((onAir 9).service 0).record.backup ≠ none ∧
        ((onAir 9).service 0).sel.choice ≠ .backup) ∧
      (let s := setService 0 (fun r => { r with backup := none }) (onAir 9);
        Settled s ∧ Met 11#8 [byte1 0, 1] s ∧ (s.service 0).record.backup = none) :=
  ⟨⟨settled _, met _ _ _⟩, met _ _ _, by decide +kernel,
    met _ _ _, ⟨met _ _ _, by decide +kernel⟩,
    ⟨settled _, met _ _ _, by decide +kernel⟩,
    ⟨met _ _ _, by decide +kernel⟩,
    ⟨settled _, met _ _ _, by decide +kernel⟩⟩
/-- A full queue that loses the word, and a queue of 63 that takes it. -/
theorem witness_StandbyMerged :
    let s := (full (onAir 9)).updSel 0 fun x => { x with standby := [plain 1 [0x41] 8] }
    let r := s.updSched 0 fun q => { q with queue := q.queue.tail }
    (s.service 0).sched.queue.length ≤ 64 ∧ (s.service 0).sel.standby.length = 1 ∧
      (r.service 0).sched.queue.length = 63 ∧
      ((mergeStandby 0 r).1.service 0).sched.queue =
        List.replicate 63 (entry 0 [0x41] 5900 6000) ++ [entry 1 [0x41] 8 6000] := by decide +kernel
theorem witness_ClearTaken :
    Met 12#8 [4] (onAir 9) ∧ Met 12#8 [byte1 3] (onAir 9) ∧ ((onAir 9).service 3).record.enabled = false ∧
      Met 12#8 [byte1 0] (onAir 9) ∧ ((onAir 9).service 0).record.enabled = true :=
  ⟨met _ _ _, met _ _ _, by decide +kernel, met _ _ _, by decide +kernel⟩
theorem witness_RestartTaken :
    Met 13#8 [4] (onAir 9) ∧ Met 13#8 [byte1 3] (onAir 9) ∧ Met 13#8 [byte1 0] (onAir 9) ∧
      (let s := (onAir 9).updAsm 0 fun a => { a with held := some { item := .marker 8, on := 0 } };
        Met 13#8 [byte1 0] s ∧ (s.line 0).asm.held = some { item := .marker 8, on := 0 }) :=
  ⟨met _ _ _, met _ _ _, met _ _ _, met _ _ _, by decide +kernel⟩
theorem witness_SoftResetTaken : Met 14#8 [] (onAir 9) ∧ (req []).len = 0#8 := ⟨met _ _ _, rfl⟩
theorem witness_QueryTaken :
    (Met 15#8 [5, 0, 0, 0] (onAir 9) ∧ 4 < (5#8 : Byte).toNat) ∧
      (Met 15#8 [1, 0, 4, 0] (onAir 9) ∧ (1#8, 3) ∈ [((1#8 : Byte), 3), (2#8, 3), (3#8, 63), (4#8, 511)]) ∧
      Met 15#8 [0, 255, 255, 0] (onAir 9) ∧ Met 15#8 [1, 0, 3, 0] (onAir 9) ∧ Met 15#8 [2, 0, 3, 2] (onAir 9) ∧
      Met 15#8 [2, 0, 0, 1] (onAir 9) ∧ Met 15#8 [2, 0, 0, 0] (onAir 9) ∧ Met 15#8 [3, 0, 63, 0] (onAir 9) ∧
      Met 15#8 [4, 1, 255, 0] (onAir 9) ∧ WithinCapacity (locked 9) ∧ StoreFormed (locked 9) :=
  ⟨⟨met _ _ _, by decide⟩, ⟨met _ _ _, by decide⟩, met _ _ _, met _ _ _, met _ _ _, met _ _ _, met _ _ _,
    met _ _ _, met _ _ _, witness_CapacitiesKept.1, witness_TablesKeepTheirLaws.1.2.1⟩
theorem witness_ReportsJoin :
    let old (n : Nat) := List.replicate n (Report.reply 0 1 .ok [])
    (old 15).length < 16 ∧ 16 ≤ (old 16).length ∧ (∀ r ∈ old 16, isNotice r = false) ∧
      16 ≤ (old 8 ++ Report.notice (.referenceLost 9) :: old 7).length ∧ ∀ r ∈ old 7, isNotice r = false := by
  decide +kernel
theorem witness_EstimateFollowsSamples :
    (8 * 80 - 647 : Int).natAbs < 8 ∧ (4088 : Nat) ≤ 4088 ∧ (511 : Nat) ≤ 511 ∧
      (643 + 4) / 8 ≠ (updateLest 643 96 + 4) / 8 ∧ (8 * 80 - 640 : Int) = 0 := by decide
/-- Section 8.2: the worked floors, with a queued entry of T 5010. -/
theorem witness_TargetIsLatest :
    let s := queued [entry 0 [0x41] 4990 5010] (onAir 5000)
    let near (f : Frame) := (frameDiff s.pfn f).natAbs ≤ 1048576
    near (rawTarget s 0 (.word (plain 0 [0x42] 5000))) ∧ near (frame 5010) ∧
      targetFrame s 0 (.word (plain 0 [0x42] 5000)) none = 5013 ∧
      (s.service 0).sched.lastLeft = none ∧
      (s.service 0).sched.queue.Pairwise (fun d e => 0 ≤ frameDiff d.target e.target) := by decide +kernel
theorem witness_BlockIsTimed :
    let s := (onAir 20040).updCb 0 fun b => { b with shown := some (20000, 150) }
    1 ≤ (s.service 0).record.readingRate ∧ (s.service 0).cb.blocks = [] ∧
      (frameDiff s.pfn (frame 20100)).natAbs ≤ 1048576 ∧
      (frameDiff s.pfn (moved 20000 150)).natAbs ≤ 1048576 := by decide +kernel
/-- A text above a W of 20 and within one of 32, and a row filled before W was lowered to 20. -/
theorem witness_WordIsComposed :
    let w := plain 0 (List.replicate 32 0x41) 9
    1 ≤ 20 ∧ 1 ≤ w.glyphs.length ∧ 20 < (wordText w).length ∧ (wordText w).length ≤ 32 ∧
      (compose 20 (plain 0 [0x42] 9) { resetBuilder with form := .rolling, fill := 30 }).kinds =
        [.roll, .glyphs [0x42]] := by decide +kernel
theorem witness_WireFollowed :
    let s := (onAir 9).updLine 0 fun x =>
      { x with sending := some { byte := .xoff, rate := .r9600, dataBits := .eight, parity := .none } }
    s.resetLow = false ∧ (s.line 1).sending = none ∧ (s.line 0).sending ≠ none := by decide +kernel
/-- FIFOs of 127 and 128 items behind a held word, and an empty one; lines that watch, that time a character
under an enabled and under a disabled record, and that wait; and FIFOs that a removal leaves with 32 and
with 95 items. -/
theorem witness_CharacterTaken :
    let item : IntakeItem := { value := 0x41, errored := false }
    let s (n : Nat) := ((onAir 9).updLine 0 fun x => { x with fifo := List.replicate n item }).updAsm 0 fun a =>
      { a with held := some { item := .marker 8, on := 0 } }
    let c (r : Receiver) := (onAir 9).updLine 0 fun x => { x with receiver := r }
    let d (n : Nat) := (onAir 9).updLine 1 fun x => { x with fifo := List.replicate n item, xoff := true }
    ((onAir 9).resetLow = false ∧ ((onAir 9).line 0).receiver = .watching ∧
      ((onAir 9).line 0).record.enabled = true ∧ ((onAir 9).line 2).record.enabled = false ∧
      ((onAir 9).line 0).fifo = [] ∧ ((onAir 9).line 0).asm.held = none ∧
      ((s 127).line 0).asm.held ≠ none ∧ ((s 127).line 0).fifo.length < 128 ∧
      128 ≤ ((s 128).line 0).fifo.length) ∧
    (((c .waitHigh).line 0).receiver = .waitHigh ∧ resetLineRecord.enabled = false ∧
      ((c (.timing resetLineRecord)).line 0).receiver = .timing resetLineRecord ∧
      { resetLineRecord with enabled := true }.enabled = true) ∧
    Settled (onAir 9) ∧
    (∀ n ∈ [33, 96], (∀ v, builderReact v (d n) = none) ∧
      (∀ m, ((d n).line m).asm.retryOwed = false) ∧ ((d n).line 0).fifo = [] ∧
      ((d n).line 1).asm.held = none ∧
      ((d n).line 1).fifo = item :: List.replicate (n - 1) item) := by
  refine ⟨by decide +kernel, by decide +kernel, settled _, by decide +kernel⟩
/-- Words of 30, 31, 1 and no glyphs, with and without a command pending. -/
theorem witness_DecoderActs :
    let s (n : Nat) := typing 0 (List.replicate n 0x41) 8 (onAir 9)
    ((s 30).line 0).asm.glyphs.length < 31 ∧ 31 ≤ ((s 31).line 0).asm.glyphs.length ∧
      ((s 1).line 0).asm.glyphs.length = 1 ∧ ((s 0).line 0).asm.glyphs = [] ∧
      ((s 0).line 0).commandPending = false ∧
      (((s 0).updLine 0 fun x => { x with commandPending := true }).line 0).commandPending = true ∧
      attachedService (s 0) 0 = some 0 ∧ attachedService (s 0) 1 = none := by decide +kernel
theorem isolated : LinesIsolated (onAir 9) := by
  have only : ∀ (v : ServiceIx) (l : LineIx), hasLine ((onAir 9).service v) l = true → v = 0 := by
    decide +kernel
  intro u v l hu hv
  rw [only u l hu, only v l hv]
theorem witness_WordIsRouted :
    LinesIsolated (onAir 9) ∧ (∀ v, hasLine ((onAir 9).service v) 2 = false) ∧
      hasLine ((onAir 9).service 0) 0 = true ∧ attachedLine ((onAir 9).service 0) = some 0 ∧
      ((onAir 9).service 0).sel.mode = .live ∧ ((onAir 9).service 0).sched.queue.length < 64 ∧
      64 ≤ ((full (onAir 9)).service 0).sched.queue.length ∧
      ((running .armed 0 7 (onAir 9)).service 0).sel.mode = .script ∧
      hasLine ((onAir 9).service 0) 1 = true ∧ attachedLine ((onAir 9).service 0) ≠ some 1 ∧
      ((onAir 9).service 0).sel.standby.length < 8 :=
  ⟨isolated, by decide +kernel⟩
theorem witness_BackspaceReachesBack :
    let s := queued [entry 0 [0x41] 9 10] (onAir 9)
    let b := opened [0x41] (popOn 9)
    (s.line 0).commandPending = false ∧ (s.line 0).asm.glyphs = [] ∧ attachedService s 0 = some 0 ∧
      attachedService s 1 = none ∧ (s.service 0).sched.queue.getLast? = some (entry 0 [0x41] 9 10) ∧
      (plain 0 [0x41] 9).line = 0 ∧ (b.service 0).sched.queue = [] ∧
      ((b.service 0).cb.openBlock.words.getLast?.map fun p => (p.whole, p.word.line)) = some (true, 0) := by
  decide +kernel
/-- Section 4.5: the full list of eight onsets with 380, 373 and 295, and the pairing at 10090. -/
theorem witness_OnsetsAdmittedAndPaired :
    let x : Onsets := { resetOnsets with frames := [300, 310, 320, 330, 340, 350, 360, 370] }
    let a := (frame 10090)
    (300 : Frame) ∈ x.frames ∧ (380 : Frame) ∉ x.frames ∧ 8 ≤ x.frames.length ∧
      strictlyBefore 300 380 = true ∧ strictlyBefore 300 295 = false ∧
      ((380 :: x.frames).all fun y => (frameDiff 300 y).natAbs ≤ 1048576) = true ∧
      x.frames.Pairwise (fun y z => strictlyBefore y z = true) ∧
      strictlyBefore 9839 (moved a (-250)) = true ∧ strictlyBefore 9840 (moved a (-250)) = false ∧
      atOrBefore 10078 (moved a (-12)) = true ∧ atOrBefore 10079 (moved a (-12)) = false := by decide +kernel
theorem witness_AgesChecked :
    let s := { onAir 12 with due := [.flush 0, .onsetExpiry 3, .ageOut 0, .holdEnd 0] }
    let held (ws : List Work) (n : Nat) : State :=
      { (onAir n).updSel 0 (fun x => { x with hold := some 1 }) with due := ws }
    (s.resetLow = false ∧ Settled s ∧ .flush 0 ∈ s.due ∧ .onsetExpiry 3 ∈ s.due ∧ .ageOut 0 ∈ s.due ∧
      .ageOut 0 ∉ s.due.erase (.ageOut 0) ∧ .holdEnd 0 ∈ s.due) ∧
    (Settled (held [.holdEnd 0] 3001) ∧ Work.ageOut 0 ∉ [Work.holdEnd 0] ∧ Work.silence 0 ∉ [Work.holdEnd 0]) ∧
    (Settled (held [.holdEnd 0, .silence 0] 3001) ∧
      Work.holdEnd 0 ∉ [Work.holdEnd 0, .silence 0].erase (.holdEnd 0)) ∧
    ((held [] 3001).service 0).record.enabled = true ∧ frameDiff 1 (held [] 3001).pfn = 3000 ∧
      frameDiff 1 (held [] 3000).pfn = 2999 :=
  ⟨⟨rfl, settled _, by decide +kernel⟩, ⟨settled _, by decide +kernel⟩, ⟨settled _, by decide +kernel⟩,
    by decide +kernel⟩
/-- A word and a marker held, with and without a pending marker and a first-word mark: on an attached line
with room, with a full queue and in SCRIPT mode; on a standby line with a hold of 7 and of 8 words; on a
line that feeds no service; and a retry that is owed. -/
theorem witness_HeldWordRetried :
    let s (l : LineIx) (h : HeldItem) := due (.retry l) ((onAir 9).updAsm l fun a =>
      { a with held := some { item := h, on := 0 }, clearPending := some 8 })
    let w (l : LineIx) := HeldItem.word (plain l [0x41] 8)
    let first := (s 0 (w 0)).updLat 0 fun x => { x with firstWord := true }
    let script (h : HeldItem) := (s 0 h).updSel 0 fun x => { x with mode := .script }
    let standby (n : Nat) := (s 1 (w 1)).updSel 0 fun x => { x with standby := List.replicate n (plain 1 [0x42] 7) }
    let owed := (s 3 (.marker 8)).updAsm 3 fun a => { a with retryOwed := true }
    (Settled (due (.retry 0) (onAir 9)) ∧ Settled (s 0 (w 0)) ∧ Settled (s 0 (.marker 8))) ∧ LinesIsolated (onAir 9) ∧
      ((s 0 (w 0)).resetLow = false ∧ .retry 0 ∈ (s 0 (w 0)).due ∧ ((s 0 (w 0)).line 0).asm.held ≠ none ∧
        attachedLine ((s 0 (w 0)).service 0) = some 0 ∧ ((s 0 (w 0)).service 0).sched.queue.length < 64) ∧
      64 ≤ ((full (s 0 (w 0))).service 0).sched.queue.length ∧ (first.line 0).lat.firstWord = true ∧
      ((script (.marker 8)).service 0).sel.mode = .script ∧
      (hasLine ((standby 7).service 0) 1 = true ∧ attachedLine ((standby 7).service 0) ≠ some 1 ∧
        ((standby 7).service 0).sel.standby.length < 8 ∧ 8 ≤ ((standby 8).service 0).sel.standby.length) ∧
      (∀ v, hasLine ((s 2 (w 2)).service v) 2 = false) ∧
      (∀ v, builderReact v owed = none) ∧ (∀ m < 3, (owed.line m).asm.retryOwed = false) ∧
      (owed.line 3).asm.retryOwed = true :=
  ⟨⟨settled _, settled _, settled _⟩, isolated, by decide +kernel⟩
/-- Runs of Nr and of Nr + 1. -/
theorem witness_EdgesDelivered :
    let s (run : Nat) (f : GpiFunction) := due (.edge 7) ((onAir 9).updInput 7 fun x =>
      { x with record := { x.record with function := f, nr := 7 }, accepted := some true, run := run })
    (s 8 .mute).resetLow = false ∧ Settled (s 8 .mute) ∧ .edge 7 ∈ (s 8 .mute).due ∧
      ((s 7 .mute).input 7).run ≤ ((s 7 .mute).input 7).record.nr ∧
      ((s 8 .mute).input 7).record.nr < ((s 8 .mute).input 7).run ∧
      ((s 8 .clear).service 0).record.enabled = true :=
  ⟨rfl, settled _, by decide +kernel⟩
theorem witness_SilenceChecked :
    let s (n stamp : Nat) := due (.silence 0) ((onAir n).updLine 1 fun x => { x with stamp := frame stamp })
    let all : List Work := [.ageOut 0, .holdEnd 0, .silence 0]
    Settled (s 249 249) ∧ (s 249 249).resetLow = false ∧ .silence 0 ∈ (s 249 249).due ∧
      .ageOut 0 ∉ (s 249 249).due ∧ .holdEnd 0 ∉ (s 249 249).due ∧
      frameDiff ((s 249 249).line 0).stamp (s 249 249).pfn = 249 ∧
      frameDiff ((s 250 1).line 0).stamp (s 250 1).pfn = 250 ∧
      frameDiff ((s 250 1).line 1).stamp (s 250 1).pfn = 249 ∧
      frameDiff ((s 250 0).line 1).stamp (s 250 0).pfn = 250 ∧
      ((s 250 0).service 0).sel.awaitsFrame = false ∧
      (((s 250 0).updSel 0 fun x => { x with awaitsFrame := true }).service 0).sel.awaitsFrame = true ∧
      (.ageOut 0 ∈ all ∧ .holdEnd 0 ∈ all ∧ .ageOut 0 ∉ all.erase (.ageOut 0) ∧
        .holdEnd 0 ∉ all.erase (.holdEnd 0)) :=
  ⟨settled _, by decide +kernel⟩
theorem witness_CuesFallDue :
    let s (n : Nat) := due (.timed 0) (onTimed (running .running 1 3 (onAir n)))
    ((onAir 9).service 0).runner.phase = .idle ∧ (issueCue 0 9 (s 9)).isSome ∧
      64 ≤ ((full (s 9)).service 0).sched.queue.length ∧ (s 20075).resetLow = false ∧
      Settled (s 20075) ∧ .timed 0 ∈ (s 20075).due ∧ ((s 20075).service 0).runner.nextBase = some 20175 ∧
      atOrBefore 20075 (s 20075).pfn = true ∧ atOrBefore 20075 (s 20074).pfn = false :=
  ⟨by decide +kernel, by decide +kernel, by decide +kernel, rfl, settled _,
    by decide +kernel⟩
/-- Heads due and not yet due, muted, and with 256 and 255 bytes in the FIFO. -/
theorem witness_RollUpServed :
    let s (n : Nat) := due (.serve 0) (queued [entry 0 [0x41] 9 10] (onAir n))
    let c := due (.serve 0) (queued [{ body := .clear 0 9, target := 10 }] (onAir 10))
    (s 10).resetLow = false ∧ Settled (s 10) ∧ Settled (s 9) ∧ Settled c ∧
      Settled ((s 10).updSel 0 fun x => { x with muted := true }) ∧ .serve 0 ∈ (s 10).due ∧
      atOrBefore 10 (s 10).pfn = true ∧ atOrBefore 10 (s 9).pfn = false ∧
      bytesHeld ((fifoOf (List.replicate 255 (unit .roll)) 0 c).service 0).om < 256 ∧
      256 ≤ bytesHeld ((fifoOf (List.replicate 256 (unit .roll)) 0 c).service 0).om :=
  ⟨rfl, settled _, settled _, settled _,
    settled _, by decide +kernel⟩
/-- The heads that are taken, over open blocks with one word, with the two rows that the record allows, and
with no word; closings with room and with a full block queue, with and without a carry; pieces; a take that
meets the hold expiry and one a frame too early; and a take by the last builder. -/
theorem witness_BuilderReacts :
    let upd (f : OpenBlock → OpenBlock) (s : State) := s.updCb 0 fun b => { b with openBlock := f b.openBlock }
    let word (w : WordRecord) (s : State) := queued [{ body := .word w, target := 100 }] s
    let plainly := word (plain 0 [0x42] 9) (opened [0x41] (popOn 9))
    let wide := word (plain 0 (List.replicate 32 0x42) 9) (opened [0x41] (popOn 9))
    let topped := upd (fun o => { o with rows := [[0x41], [0x43]] }) wide
    let empty := word (plain 0 (List.replicate 32 0x42) 9) (popOn 9)
    let long := word { plain 0 (List.replicate 32 0x42) 9 with speaker := true } (opened [0x41] (popOn 9))
    let clear := queued [{ body := .clear 0 9, target := 100 }] (popOn 9)
    let text (k : Option Nat) : TextBlock :=
      { rows := [[0x41]], tFirst := 90, closed := 9, dur := 38, showFrame := 90, story := k, trailing := none }
    let behind (k : Option Nat) := clear.updCb 0 fun b => { b with blocks := [.text (text k)] }
    let cue := queued [{ body := .cue 12 100 [0x41] 9, target := 100 }] (opened [0x41] (popOn 9))
    let forming := (onAir 9).updCb 0 fun b =>
      { b with cue := some { story := 12, index := 100, target := 100, groups := [[[0x41]]] } }
    let pending (c : Option Carry) := upd (fun o => { o with closing := some .holdExpiry, carry := c }) (opened [0x41] (popOn 9))
    let crowded := (opened [0x41] (popOn 9)).updCb 0 fun b => { b with blocks := List.replicate 4 (.text (text none)) }
    let met (n : Nat) := word (plain 0 [0x42] 9) (opened [0x41] (due (.blockHold 0) (popOn n)))
    let later := setService 3 (fun r => { r with enabled := true, display := .popOn })
      ((due (.blockHold 3) (popOn 9)).updSched 3 fun q => { q with queue := [entry 2 [0x42] 9 100] })
    (Settled (onAir 9) ∧ plainly.resetLow = false) ∧
    ((plainly.service 0).cb.blocks.length < 4 ∧ (plainly.service 0).cb.openBlock.closing = none ∧
      (plainly.service 0).cb.cue = none ∧ (plainly.service 0).record.enabled = true ∧
      (plainly.service 0).cb.openBlock.rows = [] ++ [[0x41]] ∧ 1 + 1 + 1 ≤ (plainly.service 0).record.width) ∧
    (¬ 1 + 1 + 32 ≤ (wide.service 0).record.width ∧ (wide.service 0).cb.openBlock.rows.length < (wide.service 0).record.rows ∧
      (topped.service 0).record.rows ≤ (topped.service 0).cb.openBlock.rows.length) ∧
    ((empty.service 0).cb.openBlock.words = [] ∧ (empty.service 0).cb.openBlock.rows = []) ∧
    ((long.service 0).record.width < (wordText { plain 0 (List.replicate 32 0x42) 9 with speaker := true }).length) ∧
    ((clear.service 0).cb.openBlock.words = [] ∧ (clear.service 0).cb.blocks = [] ∧
      (text none).story = none ∧ (text (some 12)).story ≠ none ∧
      ((behind (some 12)).service 0).cb.blocks = [] ++ [.text (text (some 12))]) ∧
    (cue.service 0).cb.openBlock.words ≠ [] ∧ (forming.service 0).cb.cue.isSome ∧
    (((pending none).service 0).cb.openBlock.closing = some .holdExpiry ∧
      ((pending (some { pieces := [[0x42]], word := plain 0 [0x42] 9, target := 100 })).service
        0).cb.openBlock.carry.isSome) ∧
    (4 ≤ (crowded.service 0).cb.blocks.length ∧
      ((closeOpen 0 .ordinary crowded).service 0).cb.openBlock.closing ≠ none) ∧
    ((topped.service 0).cb.openBlock.words ≠ [] ∧
      ((closeOpen 0 .ordinary topped).service 0).cb.openBlock.closing = none) ∧
    (.blockHold 0 ∈ (met 10180).due ∧ atOrBefore (10130 + BitVec.ofNat 32 50) (met 10180).pfn = true ∧
      atOrBefore (10130 + BitVec.ofNat 32 50) (met 10179).pfn = false) ∧
    ((∀ w < 3, builderReact w later = none) ∧ (builderReact 3 later).isSome) :=
  ⟨⟨settled _, rfl⟩, by decide +kernel⟩
/-- The block hold at its frame and one frame before, with 3 and with 4 blocks queued, and marked by a take
long before; a head that fits and one that does not; a block of two rows; and the other checks. -/
theorem witness_BuilderChecksPass :
    let blk (n : Nat) := due (.blockHold 0) (opened [0x41] (popOn n))
    let crowd (n : Nat) := (fifoOf (List.replicate 256 (unit .roll)) 0 (blk 10180)).updCb 0 fun b =>
      { b with blocks := List.replicate n (.clearOnly 9 9 9) }
    let st := due (.stale 0) ((onAir 1375).updCb 0 fun b =>
      { b with form := .rolling, fill := 5, lastRelease := some 1000 })
    let met := (blk 9).updCb 0 fun b => { b with openBlock := { b.openBlock with expiring := true } }
    let text : TextBlock :=
      { rows := [[0x41], [0x42]], tFirst := 90, closed := 9, dur := 38, showFrame := 90, story := some 12,
        trailing := some 95 }
    let dm := due (.dmax 0) ((onAir 9).updCb 0 fun b => { b with timer := .running 9 })
    let dr := due (.drain 0) (running .draining 0 0 (onAir 9))
    let ap (n : Nat) := due (.append 0) ((fifoOf (List.replicate n (unit .roll)) 0 (onAir 9)).updCb 0 fun b =>
      { b with blocks := [.clearOnly 9 9 9] })
    (Settled (blk 10180) ∧ Settled (blk 10179) ∧ Settled st ∧ Settled dm ∧ Settled dr ∧ Settled (ap 255) ∧
      Settled (crowd 3) ∧ Settled (crowd 4)) ∧
      (blk 10180).resetLow = false ∧ .blockHold 0 ∈ (blk 10180).due ∧
      atOrBefore (10130 + BitVec.ofNat 32 50) (blk 10180).pfn = true ∧
      atOrBefore (10130 + BitVec.ofNat 32 50) (blk 10179).pfn = false ∧
      ((crowd 3).service 0).cb.blocks.length < 4 ∧ 4 ≤ ((crowd 4).service 0).cb.blocks.length ∧
      ((crowd 4).service 0).cb.openBlock.closing = none ∧
      frameDiff 1000 st.pfn = 375 ∧ atOrBefore 9 dm.pfn = true ∧
      (∀ u ∈ (dr.service 0).om.fifo, u.story ≠ some 12) ∧
      bytesHeld ((ap 255).service 0).om < 256 ∧
      256 < bytesHeld ((ap 256).service 0).om + unitsCost (blockUnits .none (.clearOnly 9 9 9)) ∧
      ((met.service 0).cb.openBlock.expiring = true ∧
        atOrBefore (10130 + BitVec.ofNat 32 50) met.pfn = false) ∧
      text.rows ≠ [] ∧ unitsCost (blockUnits .none (.text text)) = 10 :=
  ⟨⟨settled _, settled _, settled _, settled _, settled _, settled _, settled _, settled _⟩,
    by decide +kernel⟩
end Sys2Proof.Tests
end

section
/-! The update of a line's latency estimate (R57) and the obligation about it. -/

namespace Sys2Proof.Machine

/-- R57, steps 2 and 3: the step an estimate takes when the difference to its sample is `d`. -/
def lestStep (d : Int) : Int := if d.tdiv 8 = 0 then d.sign else d.tdiv 8

/-! ### The step -/

@[simp] theorem lestStep_zero : lestStep 0 = 0 := rfl

@[simp] theorem lestStep_neg (d : Int) : lestStep (-d) = -lestStep d := by
  simp only [lestStep, Int.neg_tdiv, Int.sign_neg, neg_eq_zero]
  split <;> rfl

/-- R57 forces the step only where the difference is not 0; at 0 the forced step is 0 as well. -/
theorem lestStep_eq_ite_ne_zero (d : Int) :
    lestStep d = if d.tdiv 8 = 0 ∧ d ≠ 0 then d.sign else d.tdiv 8 := by
  by_cases hd : d = 0
  · subst hd; rfl
  · simp [lestStep, hd]

theorem lestStep_bounds_of_pos {d : Int} (hd : 0 < d) : 1 ≤ lestStep d ∧ lestStep d ≤ d := by
  have truncated : d.tdiv 8 = d / 8 := Int.tdiv_eq_ediv_of_nonneg hd.le
  rw [lestStep, truncated]
  split
  case isTrue => rw [Int.sign_eq_one_of_pos hd]; omega
  case isFalse => omega

theorem lestStep_bounds_of_neg {d : Int} (hd : d < 0) : d ≤ lestStep d ∧ lestStep d ≤ -1 := by
  have mirrored := lestStep_bounds_of_pos (Int.neg_pos_of_neg hd)
  rw [lestStep_neg] at mirrored
  omega

theorem sign_lestStep (d : Int) : (lestStep d).sign = d.sign := by
  obtain hd | rfl | hd := lt_trichotomy d 0
  · have := lestStep_bounds_of_neg hd
    rw [Int.sign_eq_neg_one_of_neg hd, Int.sign_eq_neg_one_of_neg (by omega)]
  · rfl
  · have := lestStep_bounds_of_pos hd
    rw [Int.sign_eq_one_of_pos hd, Int.sign_eq_one_of_pos (by omega)]

theorem lestStep_between (d : Int) : min 0 d ≤ lestStep d ∧ lestStep d ≤ max 0 d := by
  obtain hd | rfl | hd := lt_trichotomy d 0
  · have := lestStep_bounds_of_neg hd
    omega
  · simp
  · have := lestStep_bounds_of_pos hd
    omega

theorem natAbs_lestStep_le (d : Int) : (lestStep d).natAbs ≤ d.natAbs := by
  have := lestStep_between d
  omega

/-! ### The estimate after a sample -/

/-- The sum of estimate and step is never negative, so that `updateLest` truncates nothing. -/
theorem updateLest_eq_add_lestStep (lest s : Nat) :
    (updateLest lest s : Int) = lest + lestStep (8 * s - lest) := by
  have nonneg : 0 ≤ (lest : Int) + lestStep (8 * s - lest) := by
    have := lestStep_between (8 * s - lest)
    omega
  exact Int.toNat_of_nonneg nonneg

@[simp] theorem updateLest_of_eq (s : Nat) : updateLest (8 * s) s = 8 * s := by
  have moved := updateLest_eq_add_lestStep (8 * s) s
  rw [Nat.cast_mul, Nat.cast_ofNat, sub_self, lestStep_zero] at moved
  omega

theorem updateLest_of_lt {lest s : Nat} (h : lest < 8 * s) :
    lest < updateLest lest s ∧ updateLest lest s ≤ 8 * s := by
  have moved := updateLest_eq_add_lestStep lest s
  have step := lestStep_bounds_of_pos (d := 8 * s - lest) (by omega)
  omega

theorem updateLest_of_gt {lest s : Nat} (h : 8 * s < lest) :
    8 * s ≤ updateLest lest s ∧ updateLest lest s < lest := by
  have moved := updateLest_eq_add_lestStep lest s
  have step := lestStep_bounds_of_neg (d := 8 * s - lest) (by omega)
  omega

theorem updateLest_between (lest s : Nat) :
    min lest (8 * s) ≤ updateLest lest s ∧ updateLest lest s ≤ max lest (8 * s) := by
  obtain h | rfl | h := lt_trichotomy lest (8 * s)
  · have := updateLest_of_lt h
    omega
  · simp
  · have := updateLest_of_gt h
    omega

/-- Every update that has a distance to go closes at least one eighth of a frame of it. -/
theorem updateLest_distance_le {lest s n : Nat} (h : (8 * s - lest : Int).natAbs ≤ n + 1) :
    (8 * s - updateLest lest s : Int).natAbs ≤ n := by
  obtain hlt | rfl | hgt := lt_trichotomy lest (8 * s)
  · have := updateLest_of_lt hlt
    omega
  · simp
  · have := updateLest_of_gt hgt
    omega

/-- As many updates by one sample as the distance has eighths reach it. -/
theorem updateLest_iterate_eq {s : Nat} (n : Nat) :
    ∀ {lest : Nat}, (8 * s - lest : Int).natAbs ≤ n → (fun x => updateLest x s)^[n] lest = 8 * s := by
  induction n with
  | zero => intro lest h; rw [Function.iterate_zero_apply]; omega
  | succ n ih => intro lest h; exact ih (updateLest_distance_le h)

/-- Lsel is the count of half-frame boundaries at or below Lest: where it differs, a boundary lies between. -/
theorem exists_half_frame_boundary {x y : Nat} (h : (x + 4) / 8 < (y + 4) / 8) :
    ∃ b, b % 8 = 4 ∧ x < b ∧ b ≤ y :=
  ⟨8 * ((x + 4) / 8) + 4, by omega, by omega, by omega⟩

/-- Settles O43: each clause is a fact about `lestStep` or a bound on `updateLest`. -/
theorem estimateFollowsSamples : Obligations.EstimateFollowsSamples := by
  intro lest s d q step
  have hstep : step = lestStep d := (lestStep_eq_ite_ne_zero d).symm
  have between := updateLest_between lest s
  refine ⟨?moves, ?sign, ?size, ?equal, between.1, between.2, ?range, ?reaches, ?boundary⟩
  case moves => rw [hstep]; exact updateLest_eq_add_lestStep lest s
  case sign => intro _; rw [hstep]; exact sign_lestStep d
  case size => rw [hstep]; exact natAbs_lestStep_le d
  case equal => rintro rfl; exact updateLest_of_eq s
  case range => intro hlest hs; omega
  case reaches => intro hd; exact updateLest_iterate_eq 7 (Nat.le_of_lt_succ hd)
  case boundary =>
    intro hsel
    obtain up | down := Nat.lt_or_gt_of_ne hsel
    · obtain ⟨b, half, crossed⟩ := exists_half_frame_boundary up
      exact ⟨b, half, .inl crossed⟩
    · obtain ⟨b, half, crossed⟩ := exists_half_frame_boundary down
      exact ⟨b, half, .inr crossed⟩

end Sys2Proof.Machine
end

section
/-! SET_DEVICE (R152): the frame rate's byte, the record that a body gives, and the obligation about it. -/

namespace Sys2Proof.Machine

/-! ### The frame rate -/

/-- R152: the values that a frame rate's byte may have, with the rate that each stands for. -/
def frameRates : List (Nat × FrameRate) := [(24, .f24), (25, .f25), (30, .f30), (50, .f50), (60, .f60)]

theorem asFps_of_mem {f : Byte} {fps : FrameRate} (h : (f.toNat, fps) ∈ frameRates) :
    asFps f = some fps := by
  simp only [frameRates, List.mem_cons, Prod.mk.injEq, List.not_mem_nil, or_false] at h
  unfold asFps
  obtain ⟨value, rfl⟩ | ⟨value, rfl⟩ | ⟨value, rfl⟩ | ⟨value, rfl⟩ | ⟨value, rfl⟩ := h <;> simp [value]

theorem asFps_of_notMem {f : Byte} (h : f.toNat ∉ frameRates.map Prod.fst) : asFps f = none := by
  unfold asFps
  split
  case h_6 => rfl
  all_goals next value => exact absurd (by rw [value]; decide) h

/-! ### The record that a body gives -/

theorem okOr_decide (c : Prop) [Decidable c] : okOr (decide c) = if c then .clamped else .ok := by
  simp [okOr]

/-- A number held to its greatest value is changed exactly when it is above it. -/
theorem min_bne (hi n : Nat) : (min hi n != n) = decide (hi < n) := by
  rw [Bool.eq_iff_iff, bne_iff_ne, decide_eq_true_iff]
  omega

/-- R152: the record of a body whose frame rate is one of the five. -/
theorem parseDevice_of_rate {f d1 d0 a : Byte} {fps : FrameRate} (h : asFps f = some fps) :
    parseDevice [f, d1, d0, a] =
      .ok ({ fps := fps, delay := min 600 (256 * d1.toNat + d0.toNat), address := min 14 a.toNat },
        decide (600 < 256 * d1.toNat + d0.toNat ∨ 14 < a.toNat)) := by
  simp [parseDevice, at1, num1, num2, h, min_bne]

theorem parseDevice_of_noRate {f d1 d0 a : Byte} (h : asFps f = none) :
    parseDevice [f, d1, d0, a] = .error .badValue := by
  simp [parseDevice, at1, h]

/-! ### The command -/

theorem doSetDevice_of_ok {b : List Byte} {d : DeviceRecord} {clamped : Bool}
    (h : parseDevice b = .ok (d, clamped)) (s : State) :
    doSetDevice b s = accept (okOr clamped) { s with device := d } := by
  rw [doSetDevice, h]

theorem doSetDevice_of_error {b : List Byte} {c : ReplyCode} (h : parseDevice b = .error c) (s : State) :
    doSetDevice b s = refuse c s := by
  rw [doSetDevice, h]

theorem exec_setDevice (p : Request) (s : State) : exec (.setDevice p) s = .next (setDeviceArrival p s) := rfl

/-- A SET_DEVICE that arrives with its four bytes is answered with what its body's record gives. -/
theorem exec_setDevice_of_arrives {p : Request} {s t : State} {f d1 d0 a : Byte} (ready : Ready s)
    (arrives : Arrives 1#8 p s t) (body : HasBody p [f, d1, d0, a]) :
    exec (.setDevice p) s = .next (answer 1#8 p (doSetDevice [f, d1, d0, a] t)) := by
  rw [exec_setDevice, setDeviceArrival, controlArrival_of_arrives ready arrives,
    interpret_of_hasBody body rfl (by simp)]

/-- Settles O23: the frame rate's byte decides between the record replaced and the refusal. -/
theorem setDeviceTaken : Obligations.SetDeviceTaken := by
  intro p s t f d1 d0 a ready arrives body
  rw [exec_setDevice_of_arrives ready arrives body]
  refine ⟨?taken, ?refused⟩
  case taken =>
    rintro rate fps listed rfl
    rw [doSetDevice_of_ok (parseDevice_of_rate (asFps_of_mem listed)), okOr_decide, answer_eq_replied]
    rfl
  case refused =>
    intro unlisted
    rw [doSetDevice_of_error (parseDevice_of_noRate (asFps_of_notMem unlisted)), answer_eq_replied]
    rfl

end Sys2Proof.Machine
end

section
/-! Updates of one part of the state, one after another, and what the builder's operations leave alone. -/

namespace Sys2Proof

@[simp] theorem Quad.set_set {α : Type} (q : Quad α) (i : Fin 4) (x y : α) :
    (q.set i x).set i y = q.set i y := by
  fin_cases i <;> rfl

@[simp] theorem Quad.map_map {α β γ : Type} (f : α → β) (g : β → γ) (q : Quad α) :
    (q.map f).map g = q.map fun x => g (f x) := rfl

@[simp] theorem Oct.set_set {α : Type} (q : Oct α) (i : Fin 8) (x y : α) :
    (q.set i x).set i y = q.set i y := by
  fin_cases i <;> rfl

theorem Oct.ext_get {α : Type} {p q : Oct α} (h : ∀ i, p.get i = q.get i) : p = q := by
  obtain ⟨p0, p1, p2, p3, p4, p5, p6, p7⟩ := p
  obtain ⟨q0, q1, q2, q3, q4, q5, q6, q7⟩ := q
  obtain rfl : p0 = q0 := h 0
  obtain rfl : p1 = q1 := h 1
  obtain rfl : p2 = q2 := h 2
  obtain rfl : p3 = q3 := h 3
  obtain rfl : p4 = q4 := h 4
  obtain rfl : p5 = q5 := h 5
  obtain rfl : p6 = q6 := h 6
  obtain rfl : p7 = q7 := h 7
  rfl

theorem mem_fours (v : Fin 4) : v ∈ fours := by fin_cases v <;> decide

namespace Machine

/-! ### Two updates of one part are one -/

theorem updService_updService (s : State) (v : ServiceIx) (f g : Service → Service) :
    (s.updService v f).updService v g = s.updService v fun x => g (f x) := by
  simp [State.updService]

theorem updLine_updLine (s : State) (l : LineIx) (f g : Line → Line) :
    (s.updLine l f).updLine l g = s.updLine l fun x => g (f x) := by
  simp [State.updLine]

theorem updAsm_updAsm (s : State) (l : LineIx) (f g : Assembler → Assembler) :
    (s.updAsm l f).updAsm l g = s.updAsm l fun a => g (f a) := updLine_updLine ..

theorem updService_congr {s : State} {v : ServiceIx} {f g : Service → Service}
    (h : f (s.service v) = g (s.service v)) : s.updService v f = s.updService v g := by
  simp only [State.updService, show f (s.services.get v) = g (s.services.get v) from h]

theorem updLine_congr {s : State} {l : LineIx} {f g : Line → Line}
    (h : f (s.line l) = g (s.line l)) : s.updLine l f = s.updLine l g := by
  simp only [State.updLine, show f (s.lines.get l) = g (s.lines.get l) from h]

theorem updInput_congr {s : State} {i : InputIx} {f g : Input → Input}
    (h : f (s.input i) = g (s.input i)) : s.updInput i f = s.updInput i g := by
  simp only [State.updInput, show f (s.inputs.get i) = g (s.inputs.get i) from h]

theorem updService_eq_self {s : State} {v : ServiceIx} {f : Service → Service}
    (h : f (s.service v) = s.service v) : s.updService v f = s := by
  simp only [State.updService, show f (s.services.get v) = s.services.get v from h, Quad.set_get]

theorem updLine_eq_self {s : State} {l : LineIx} {f : Line → Line}
    (h : f (s.line l) = s.line l) : s.updLine l f = s := by
  simp only [State.updLine, show f (s.lines.get l) = s.lines.get l from h, Quad.set_get]

/-- An update of one service leaves every other service as it was. -/
theorem service_updService_ne (s : State) {v u : ServiceIx} (f : Service → Service) (h : u ≠ v) :
    (s.updService v f).service u = s.service u := by
  rw [service_updService, if_neg h]

/-! ### What the builder's operations change -/

/-- From s to t nothing has changed but the builder and the output FIFO of service v, and the count of
what was discarded under its mute. -/
def Builds (v : ServiceIx) (s t : State) : Prop :=
  ∃ (c : Builder) (o : Carriage) (n : Count), t = s.updService v fun x =>
    { x with cb := c, om := o, sel := { x.sel with muteDiscards := n } }

namespace Builds

variable {v : ServiceIx} {s t u : State}

theorem refl (v : ServiceIx) (s : State) : Builds v s s :=
  ⟨(s.service v).cb, (s.service v).om, (s.service v).sel.muteDiscards, (updService_eq_self rfl).symm⟩

theorem trans (h : Builds v s t) (g : Builds v t u) : Builds v s u := by
  obtain ⟨c, o, n, rfl⟩ := h
  obtain ⟨c', o', n', rfl⟩ := g
  exact ⟨c', o', n', updService_updService ..⟩

theorem updCb (v : ServiceIx) (f : Builder → Builder) (s : State) : Builds v s (s.updCb v f) :=
  ⟨f (s.service v).cb, (s.service v).om, (s.service v).sel.muteDiscards, rfl⟩

theorem updOm (v : ServiceIx) (f : Carriage → Carriage) (s : State) : Builds v s (s.updOm v f) :=
  ⟨(s.service v).cb, f (s.service v).om, (s.service v).sel.muteDiscards, rfl⟩

/-- The state with another builder, output FIFO and discard count: everything else stands. -/
theorem frame (h : Builds v s t) : t = { s with services := t.services } := by
  obtain ⟨c, o, n, rfl⟩ := h; rfl

theorem line (h : Builds v s t) (l : LineIx) : t.line l = s.line l := by rw [h.frame]; rfl

theorem lines (h : Builds v s t) : t.lines = s.lines := by rw [h.frame]

theorem ci (h : Builds v s t) : t.ci = s.ci := by rw [h.frame]

theorem other (h : Builds v s t) {w : ServiceIx} (hw : w ≠ v) : t.service w = s.service w := by
  obtain ⟨c, o, n, rfl⟩ := h; exact service_updService_ne s _ hw

theorem service (h : Builds v s t) : ∃ c o n, t.service v =
    { s.service v with cb := c, om := o, sel := { (s.service v).sel with muteDiscards := n } } := by
  obtain ⟨c, o, n, rfl⟩ := h; exact ⟨c, o, n, service_updService_same ..⟩

theorem record (h : Builds v s t) (w : ServiceIx) : (t.service w).record = (s.service w).record := by
  obtain ⟨c, o, n, rfl⟩ := h; rw [service_updService]; split
  · next e => rw [e]
  · rfl

theorem runner (h : Builds v s t) (w : ServiceIx) : (t.service w).runner = (s.service w).runner := by
  obtain ⟨c, o, n, rfl⟩ := h; rw [service_updService]; split
  · next e => rw [e]
  · rfl

theorem mode (h : Builds v s t) (w : ServiceIx) :
    (t.service w).sel.mode = (s.service w).sel.mode := by
  obtain ⟨c, o, n, rfl⟩ := h; rw [service_updService]; split
  · next e => rw [e]
  · rfl

theorem sched (h : Builds v s t) (w : ServiceIx) : (t.service w).sched = (s.service w).sched := by
  obtain ⟨c, o, n, rfl⟩ := h; rw [service_updService]; split
  · next e => rw [e]
  · rfl

end Builds

theorem builds_appendUnits (v : ServiceIx) (us : List OutUnit) (s : State) :
    Builds v s (appendUnits v us s) := Builds.updOm ..

theorem builds_updOpen (v : ServiceIx) (f : OpenBlock → OpenBlock) (s : State) :
    Builds v s (updOpen v f s) := Builds.updCb ..

theorem builds_appendHead {v : ServiceIx} {s t : State} (h : appendHead v s = some t) :
    Builds v s t := by
  simp only [appendHead] at h
  split at h
  · simp at h
  · split at h
    · simp only [Option.some.injEq] at h; subst h
      exact ⟨_, (s.service v).om, bump (s.service v).sel.muteDiscards, updService_updService ..⟩
    · split at h
      · simp only [Option.some.injEq] at h; subst h
        exact (builds_appendUnits ..).trans (Builds.updCb ..)
      · simp at h

theorem builds_appendBlocks (v : ServiceIx) (n : Nat) (s : State) :
    Builds v s (appendBlocks v n s) := by
  induction n generalizing s with
  | zero => exact .refl v s
  | succ n ih =>
    rw [appendBlocks]
    split
    · exact .refl v s
    · next h => exact (builds_appendHead h).trans (ih _)

theorem builds_attemptAppend (v : ServiceIx) (s : State) : Builds v s (attemptAppend v s) :=
  builds_appendBlocks ..

theorem builds_joinBlock (v : ServiceIx) (b : Block) (s : State) : Builds v s (joinBlock v b s) :=
  (Builds.updCb ..).trans (builds_attemptAppend ..)

theorem builds_closeNow (v : ServiceIx) (c : CloseCause) (f : Option Frame) (s : State) :
    Builds v s (closeNow v c f s) := by
  simp only [closeNow]
  split
  · exact Builds.updCb ..
  · exact (Builds.updCb ..).trans (builds_joinBlock ..)

theorem builds_closeOpen (v : ServiceIx) (c : CloseCause) (s : State) :
    Builds v s (closeOpen v c s) := by
  simp only [closeOpen]
  repeat' split
  · exact .refl v s
  · exact builds_closeNow ..
  · exact Builds.updCb ..

theorem builds_placePieces (v : ServiceIx) (w : WordRecord) (t : Frame) (ps : List Row) (a b : Bool)
    (s : State) : Builds v s (placePieces v w t ps a b s) := by
  induction ps generalizing a b s with
  | nil =>
    rw [placePieces]
    split
    · exact builds_closeOpen ..
    · exact .refl v s
  | cons p ps ih =>
    simp only [placePieces]
    repeat' split
    · exact (builds_updOpen ..).trans (ih ..)
    · exact (builds_closeOpen ..).trans (builds_updOpen ..)
    · exact (builds_closeOpen ..).trans ((builds_updOpen ..).trans (ih ..))

theorem builds_placeWord (v : ServiceIx) (w : WordRecord) (t : Frame) (s : State) :
    Builds v s (placeWord v w t s) := by
  simp only [placeWord]
  repeat' split
  · exact (builds_updOpen ..).trans (builds_closeOpen ..)
  · exact builds_updOpen ..
  all_goals exact (builds_closeOpen ..).trans (builds_placePieces ..)

theorem builds_markExpiring (v : ServiceIx) (s : State) : Builds v s (markExpiring v s) :=
  builds_updOpen ..

theorem builds_takeWord (v : ServiceIx) (w : WordRecord) (t : Frame) (s : State) :
    Builds v s (takeWord v w t s) := by
  have placed : Builds v s (placeWord v w t
      (if w.speaker || w.breakBefore then closeOpen v .ordinary s else s)) := by
    split
    · exact (builds_closeOpen ..).trans (builds_placeWord ..)
    · exact builds_placeWord ..
  simp only [takeWord]
  split
  · exact placed.trans (builds_markExpiring ..)
  · exact placed

theorem builds_takeClear (v : ServiceIx) (t : Frame) (s : State) : Builds v s (takeClear v t s) := by
  simp only [takeClear]
  repeat' split
  · exact builds_closeNow ..
  · exact Builds.updCb ..
  · exact .refl v s
  all_goals exact builds_joinBlock ..

theorem builds_takeCue (v : ServiceIx) (a b : Nat) (x : List Byte) (t : Frame) (s : State) :
    Builds v s (takeCue v a b x t s) := by
  rw [takeCue]
  exact (builds_closeOpen ..).trans (Builds.updCb ..)

theorem builds_carryOutClosing {v : ServiceIx} {s t : State} (h : carryOutClosing v s = some t) :
    Builds v s t := by
  simp only [carryOutClosing] at h
  repeat' split at h
  all_goals simp only [Option.some.injEq, reduceCtorEq] at h
  · subst h; exact builds_closeNow ..
  · subst h
    exact (builds_closeNow ..).trans ((builds_placePieces ..).trans (builds_markExpiring ..))
  · subst h; exact (builds_closeNow ..).trans (builds_placePieces ..)

theorem builds_formBlock {v : ServiceIx} {s t : State} (h : formBlock v s = some t) :
    Builds v s t := by
  simp only [formBlock] at h
  repeat' split at h
  all_goals simp only [Option.some.injEq, reduceCtorEq] at h
  · subst h; exact Builds.updCb ..
  all_goals subst h; exact (Builds.updCb ..).trans (builds_joinBlock ..)

theorem builds_checkHold (v : ServiceIx) (s : State) : Builds v s (checkHold v s) := by
  simp only [checkHold]
  split
  · exact (builds_updOpen ..).trans (builds_closeOpen ..)
  · exact builds_updOpen ..

theorem builds_checkStale (v : ServiceIx) (s : State) : Builds v s (checkStale v s) := by
  simp only [checkStale]
  split
  · exact (builds_appendUnits ..).trans (Builds.updCb ..)
  · exact .refl v s

theorem builds_checkDmax (v : ServiceIx) (s : State) : Builds v s (checkDmax v s) := by
  simp only [checkDmax]
  repeat' split
  · exact (builds_appendUnits ..).trans (Builds.updCb ..)
  all_goals exact .refl v s

theorem builds_showLeft (v : ServiceIx) (f n : Frame) (last : Bool) (s : State) :
    Builds v s (showLeft v f n last s) := by
  rw [showLeft]
  exact Builds.updCb ..

theorem builds_reportShows (v : ServiceIx) (n : Frame) (rest us : List OutUnit) (s : State) :
    Builds v s (reportShows v n rest us s) := by
  induction us generalizing s with
  | nil => exact .refl v s
  | cons u us ih =>
    rw [reportShows]
    split
    · exact (builds_showLeft ..).trans (ih _)
    · exact ih _

theorem builds_serveRound (r : Bool) (n : Frame) (v : ServiceIx) (room : Nat) (s : State) :
    Builds v s (serveRound r n v room s).2 :=
  (Builds.updOm ..).trans (builds_reportShows ..)

theorem builds_clearService (v : ServiceIx) (s : State) : Builds v s (clearService v s) :=
  (Builds.updCb ..).trans (Builds.updOm ..)

end Machine
end Sys2Proof
end

section
/-! What every step keeps: a law of states is kept by a step when the parts a step is made of keep it. Each
structure below names the parts that one kind of command is made of. -/

namespace Sys2Proof.Machine

/-- The law is kept by the reactions of an event and by the pieces of work, and does not rest on the
agenda. -/
structure KeepsWork (P : State → Prop) : Prop where
  agenda : ∀ {s} (ws : List Work), P s → P { s with due := ws }
  carryOut : ∀ {s t} {v : ServiceIx}, carryOutClosing v s = some t → P s → P t
  form : ∀ {s t} {v : ServiceIx}, formBlock v s = some t → P s → P t
  take : ∀ {s t} {v : ServiceIx}, takeHead v s = some t → P s → P t
  retry : ∀ {s} (l : LineIx), P s → P (retryHeld l s)
  hand : ∀ {s t} {l : LineIx}, handItem l s = some t → P s → P t
  perform : ∀ {s} (w : Work), P s → P (perform w s)

/-- The law is kept by what a carriage point is made of, the work aside. -/
structure KeepsCarriage (P : State → Prop) : Prop where
  out : ∀ {s} (o : List (List Byte)), P s → P { s with out := o }
  assemble : ∀ {s}, P s → P (assemble s).state
  reportGone : ∀ {s}, P s → P { s with ci := { s.ci with reports := s.ci.reports.tail } }

/-- The law is kept by what the arrival of a packet is made of, the work aside. -/
structure KeepsRequests (P : State → Prop) : Prop where
  out : ∀ {s} (o : List (List Byte)), P s → P { s with out := o }
  answer : ∀ {s} (r : Report) (c : ReplyCode), P s → P (s.updCi fun k => joinReply r (countRequest c k))
  softReset : ∀ {s} (r : Report), P s → P ((softReset s).updCi (joinReply r))
  setDevice : ∀ {s b d c}, parseDevice b = .ok (d, c) → P s → P { s with device := d }
  loadLine : ∀ {s b l r c}, parseLine b = .ok (l, r, c) → P s → P (s.updLine l (loadRecord s.pfn r))
  loadService : ∀ {s b v r c}, parseService b = .ok (v, r, c) →
    ((s.service v).record.enabled = true → r.enabled = true →
      r.primary = (s.service v).record.primary ∧ r.backup = (s.service v).record.backup) →
    ((s.service v).record.enabled = false → r.enabled = true → linesInUse s v r = false) →
    P s → P (s.updService v fun x => { x with record := r })
  close : ∀ {s} (v : ServiceIx), P s → P (closeOpen v .ordinary s)
  restart : ∀ {s} (v : ServiceIx), P s → P (restartService v s)
  slotMap : ∀ {s} (m : SlotMap), P s → P { s with pendingMap := some m }
  story : ∀ {s b st c} (k : Nat), parseStory b = .ok (st, c) → P s →
    P { s with stories := storePut k st s.stories }
  cue : ∀ {s} (k : Nat) (x : Cue), x.text.length ≤ 116 → P s → P { s with cues := storePut k x s.cues }
  gpi : ∀ {s b i r c}, parseGpi b = .ok (i, r, c) → P s →
    P (s.updInput i fun x => rebaseline { x with record := r })
  arm : ∀ {s v} (k : Nat) (st : Story), (s.service v).runner.phase = .idle → P s →
    P (s.updRunner v (armRunner k st))
  issue : ∀ {s t v} {a : Frame}, takesTrigger (s.service v) = true → issueCue v a s = some t → P s → P t
  refused : ∀ {s} (v : ServiceIx), P s → P (cueRefused v s)
  disarm : ∀ {s} (v : ServiceIx), P s → P (s.updRunner v idleRunner)
  drain : ∀ {s v k}, (s.service v).runner.story = some k → P s → P (startDrain v k s)
  mode : ∀ {s} (v : ServiceIx) (m : Mode), P s → P (setMode v m s)
  switch : ∀ {s} (v : ServiceIx) (c : Choice), P s → P (switchLine v c s)
  clear : ∀ {s} (v : ServiceIx), P s → P (clearService v s)
  noticed : ∀ {s}, P s → P (s.updCi fun c => { c with droppedNotice := false })
  figuresRead : ∀ {s} (v : ServiceIx), P s →
    P (s.updSched v fun q => { q with maxLateness := 0, maxLag := 0 })

/-- The law is kept by what the frame port's commands are made of, work and carriage aside. -/
structure KeepsFrames (P : State → Prop) : Prop where
  begin_ : ∀ {s} (levels : BitVec 8), P s → P (beginFrame levels s)
  port : ∀ {s} (p : Frame) (r : RefState) (t : FrameTimer) (n : BitVec 32),
    P s → P { s with pfn := p, ref := r, timer := t, internalFrames := n }
  raise : ∀ {s} (n : Notice), P s → P (raise n s)

/-- The law is kept by what the commands of the steno wire are made of. -/
structure KeepsWire (P : State → Prop) : Prop where
  startBit : ∀ {s} (l : LineIx) (high : Bool), P s → P (s.updLine l (startBit high))
  wireHigh : ∀ {s} (l : LineIx), P s → P (s.updLine l wireHigh)
  sent : ∀ {s} (l : LineIx), P s → P (s.updLine l sent)
  passOver : ∀ {s} (l : LineIx), P s → P (s.updLine l passOver)
  receive : ∀ {s} (l : LineIx) (r : LineRecord) (data : Byte) (pbit stop : Bool),
    P s → P (receive l r data pbit stop s)

variable {P : State → Prop} {s t : State}

/-! ### Work and reactions -/

theorem KeepsWork.react (k : KeepsWork P) (e : react s = some t) (h : P s) : P t := by
  obtain ⟨v, e⟩ | ⟨v, e⟩ | ⟨v, e⟩ | ⟨l, -, rfl⟩ | ⟨l, e⟩ := react_cases e
  · exact k.carryOut e h
  · exact k.form e h
  · exact k.take e h
  · exact k.retry l h
  · exact k.hand e h

theorem KeepsWork.settle (k : KeepsWork P) (h : P s) : P (settle s) :=
  settle_keeps (fun _ _ => k.react) s h

theorem KeepsWork.doWork (k : KeepsWork P) (w : Work) (h : P s) : P (doWork w s) := by
  rw [Machine.doWork]
  split
  · exact k.settle (k.perform w (k.agenda _ h))
  · exact h

theorem KeepsWork.foldl (k : KeepsWork P) (ws : List Work) {s : State} (h : P s) :
    P (ws.foldl (fun t w => Machine.doWork w t) s) := by
  induction ws generalizing s with
  | nil => exact h
  | cons w ws ih => exact ih (k.doWork w h)

theorem KeepsWork.finishWork (k : KeepsWork P) (h : P s) : P (finishWork s) := k.foldl _ h

theorem KeepsWork.runWork (k : KeepsWork P) (w : Work) (h : P s) : P (runWork w s) := by
  unfold Machine.runWork
  split
  · dsimp only
    split
    · exact k.doWork _ (k.doWork _ (k.doWork _ h))
    · exact k.doWork _ (k.doWork _ h)
  · exact k.doWork _ (k.doWork _ (k.doWork _ h))
  · exact k.doWork _ h

theorem KeepsWork.runAll (k : KeepsWork P) (ws : List Work) {s : State} (h : P s) :
    P (ws.foldl (fun t w => Machine.runWork w t) s) := by
  induction ws generalizing s with
  | nil => exact h
  | cons w ws ih => exact ih (k.runWork w h)

theorem KeepsWork.takeReaction (k : KeepsWork P) {f : State → Option State}
    (hf : ∀ {s t}, f s = some t → P s → P t) (h : P s) : P (takeReaction f s) := by
  rw [Machine.takeReaction]
  split
  · next e => exact k.settle (hf e h)
  · exact h

/-- Whatever the four services are given one after another keeps what each keeps. -/
theorem forServices_keeps {f : ServiceIx → State → State} (hf : ∀ v s, P s → P (f v s)) (h : P s) :
    P (forServices f s) :=
  hf 3 _ (hf 2 _ (hf 1 _ (hf 0 _ h)))

theorem forInputs_keeps {f : InputIx → State → State} (hf : ∀ i s, P s → P (f i s)) (h : P s) :
    P (forInputs f s) :=
  hf 7 _ (hf 6 _ (hf 5 _ (hf 4 _ (hf 3 _ (hf 2 _ (hf 1 _ (hf 0 _ h)))))))

theorem KeepsWork.drainsFirst (k : KeepsWork P) (d : BitVec 4) (h : P s) : P (drainsFirst d s) := by
  refine forServices_keeps (fun v s h => ?_) h
  split
  · exact k.perform (.drain v) h
  · exact h

theorem KeepsWork.appendAll (k : KeepsWork P) (h : P s) : P (appendAll s) :=
  forServices_keeps (fun v _ h => k.settle (k.perform (.append v) h)) h

/-- What the steps of a frame start keep, the frame start keeps. -/
theorem beginFrame_keeps (levels : BitVec 8)
    (came : P s → P { s with pfn := s.pfn + 1, services := s.services.map frameCame })
    (held : ∀ {s}, P s → P (holdPast s))
    (sampled : ∀ {s} (i : InputIx) (b : Bool), P s → P (s.updInput i (sample b)))
    (delivered : ∀ {s}, P s → P { s with due := frameStartWork, out := [] }) (h : P s) :
    P (beginFrame levels s) := by
  rw [beginFrame]
  exact delivered (forInputs_keeps (fun i _ => sampled i _) (held (came h)))

/-! ### Carriage points and internal frames -/

theorem KeepsCarriage.placeReport (c : KeepsCarriage P) (h : P s) : P (placeReport s) := by
  rw [Machine.placeReport]
  split
  · exact h
  · next r rs e =>
    have := c.reportGone (c.out (s.out ++ [reportPacket s.device.address r]) h)
    rwa [show ({ s with out := s.out ++ [reportPacket s.device.address r] } : State).ci.reports.tail = rs
      by simp [e]] at this

theorem KeepsWork.realCarriage (k : KeepsWork P) (c : KeepsCarriage P) (d : BitVec 4) (h : P s) :
    P (realCarriage d s) :=
  k.agenda _ (k.appendAll (c.placeReport (c.out _ (c.assemble (k.drainsFirst d h)))))

theorem KeepsWork.internalCarriage (k : KeepsWork P) (c : KeepsCarriage P) (d : BitVec 4) (h : P s) :
    P (internalCarriage d s) :=
  k.finishWork (k.agenda _ (k.appendAll (c.assemble (k.drainsFirst d h))))

theorem KeepsFrames.internalFrames (f : KeepsFrames P) (n : BitVec 32) (h : P s) :
    P { s with internalFrames := n } := f.port s.pfn s.ref s.timer n h

theorem KeepsFrames.lockTimer (f : KeepsFrames P) (h : P s) : P (lockTimer s) :=
  f.port s.pfn _ _ s.internalFrames h

theorem KeepsFrames.freeTimer (f : KeepsFrames P) (h : P s) : P (freeTimer s) :=
  f.port s.pfn s.ref _ s.internalFrames h

theorem KeepsFrames.internalFrame (f : KeepsFrames P) (k : KeepsWork P) (c : KeepsCarriage P)
    (levels : BitVec 8) (i : InternalFrame) (h : P s) : P (internalFrame levels i s) :=
  k.internalCarriage c _ (k.finishWork (k.runAll _ (f.internalFrames _ (f.begin_ levels h))))

theorem KeepsFrames.realFrame (f : KeepsFrames P) (k : KeepsWork P) (levels : BitVec 8) (h : P s) :
    P (realFrame levels s) := by
  rw [Machine.realFrame]
  split
  · exact f.lockTimer (f.begin_ levels (f.port 0 s.ref s.timer s.internalFrames h))
  · exact f.lockTimer (f.begin_ levels (k.finishWork h))
  · exact f.raise _ (f.lockTimer (f.begin_ levels (k.finishWork h)))

theorem KeepsFrames.loseReference (f : KeepsFrames P) (k : KeepsWork P) (c : KeepsCarriage P)
    (levels : BitVec 8) (i j m : InternalFrame) (h : P s) : P (loseReference levels i j m s) :=
  f.freeTimer (f.internalFrame k c levels m (f.internalFrame k c levels j (f.internalFrame k c levels i
    (f.raise _ (f.port _ _ (finishWork s).timer _ (k.finishWork h))))))

/-! ### Requests -/

theorem KeepsRequests.doSetDevice (q : KeepsRequests P) (b : List Byte) (h : P s) :
    P (doSetDevice b s).state := by
  rw [Machine.doSetDevice]
  split
  · exact h
  · next e => exact q.setDevice e h

theorem KeepsRequests.doLoadLine (q : KeepsRequests P) (b : List Byte) (h : P s) :
    P (doLoadLine b s).state := by
  rw [Machine.doLoadLine]
  split
  · exact h
  · next e => exact q.loadLine e h

theorem KeepsRequests.doLoadService (q : KeepsRequests P) (k : KeepsWork P) (b : List Byte) (h : P s) :
    P (doLoadService b s).state := by
  rw [Machine.doLoadService]
  split
  · exact h
  · next v r c e =>
    dsimp only
    split
    · next enabled =>
      split
      · split
        · next same =>
          have changed := q.loadService e (fun _ _ => same) (by simp [enabled]) h
          rw [Machine.accept, Machine.changeService]
          dsimp only
          split
          · exact k.settle (q.close v changed)
          · exact k.settle changed
        · exact h
      · next disables =>
        refine k.settle (q.loadService e (by simp [disables]) (by simp [disables]) (q.restart v h))
    · next disabled =>
      split
      · exact h
      · next free =>
        exact q.loadService e (by simp [disabled]) (fun _ on => by simpa [on] using free) h

theorem KeepsRequests.doLoadSlotmap (q : KeepsRequests P) (b : List Byte) (h : P s) :
    P (doLoadSlotmap b s).state := by
  rw [Machine.doLoadSlotmap]
  split
  · exact h
  · exact q.slotMap _ h

theorem KeepsRequests.doLoadStory (q : KeepsRequests P) (b : List Byte) (h : P s) :
    P (doLoadStory b s).state := by
  simp only [Machine.doLoadStory]
  split
  · exact h
  split
  · exact h
  split
  · exact h
  split
  · exact h
  · next e => exact q.story _ e h

theorem KeepsRequests.doLoadCue (q : KeepsRequests P) (b : List Byte) (short : b.length ≤ 120)
    (h : P s) : P (doLoadCue b s).state := by
  simp only [Machine.doLoadCue]
  split
  · exact h
  split
  · exact h
  split
  · exact h
  · refine q.cue _ _ ?_ h
    simp only [cueText, List.length_take, List.length_drop]
    omega

theorem KeepsRequests.doLoadGpi (q : KeepsRequests P) (b : List Byte) (h : P s) :
    P (doLoadGpi b s).state := by
  rw [Machine.doLoadGpi]
  split
  · exact h
  · next e => exact q.gpi e h

theorem KeepsRequests.doArm (q : KeepsRequests P) (b : List Byte) (h : P s) :
    P (doArm b s).state := by
  rw [Machine.doArm]
  split
  · exact h
  dsimp only
  split
  · exact h
  split
  · exact h
  split
  · exact h
  next idle =>
  split
  · exact h
  split
  · exact h
  split
  · exact h
  · exact q.arm _ _ (by simpa using idle) h

theorem KeepsRequests.doAdvance (q : KeepsRequests P) (k : KeepsWork P) (b : List Byte) (h : P s) :
    P (doAdvance b s).state := by
  rw [Machine.doAdvance]
  split
  · exact h
  dsimp only
  split
  · exact h
  split
  · next takes =>
    split
    · next e => exact k.settle (q.issue takes e h)
    · exact q.refused _ h
  · exact h

theorem KeepsRequests.doCancel (q : KeepsRequests P) (k : KeepsWork P) (b : List Byte) (h : P s) :
    P (doCancel b s).state := by
  rw [Machine.doCancel]
  split
  · exact h
  have removed (v : ServiceIx) : P (match (s.service v).runner.story with
      | some k => accept .ok (Machine.settle (startDrain v k s))
      | none => accept .ok (s.updRunner v idleRunner)).state := by
    split
    · next e => exact k.settle (q.drain e h)
    · exact q.disarm v h
  dsimp only
  split
  · exact h
  · exact q.disarm _ h
  · exact h
  · exact removed _
  · exact removed _

theorem KeepsRequests.doSelect (q : KeepsRequests P) (k : KeepsWork P) (b : List Byte) (h : P s) :
    P (doSelect b s).state := by
  rw [Machine.doSelect]
  split
  · exact h
  split
  · exact h
  split
  · exact h
  · exact k.settle (q.mode _ _ h)
  split
  · exact h
  split
  · exact h
  · exact k.settle (q.switch _ _ h)

theorem KeepsRequests.doClear (q : KeepsRequests P) (k : KeepsWork P) (b : List Byte) (h : P s) :
    P (doClear b s).state := by
  rw [Machine.doClear]
  split
  · exact h
  split
  · exact h
  · exact k.settle (q.clear _ h)

theorem KeepsRequests.doRestart (q : KeepsRequests P) (k : KeepsWork P) (b : List Byte) (h : P s) :
    P (doRestart b s).state := by
  rw [Machine.doRestart]
  split
  · exact h
  split
  · exact h
  · exact k.settle (q.restart _ h)

theorem KeepsRequests.queryClears (q : KeepsRequests P) (t : QueryTarget) (ix part : Nat) (h : P s) :
    P (queryClears t ix part s) := by
  cases t
  case device => exact q.noticed h
  case service =>
    rw [Machine.queryClears]
    split
    · exact q.figuresRead _ h
    · exact h
  all_goals exact h

theorem KeepsRequests.doQuery (q : KeepsRequests P) (b : List Byte) (h : P s) :
    P (doQuery b s).state := by
  rw [Machine.doQuery]
  split
  · exact h
  dsimp only
  split
  · exact h
  split
  · exact h
  · exact q.queryClears _ _ _ h

/-! ### Arrivals -/

theorem interpret_keeps {fits : Nat → Bool}
    {handler : List Byte → State → Handled} {p : Request}
    (hh : ∀ {s} b, b.length ≤ 120 → P s → P (handler b s).state) (h : P s) :
    P (interpret fits handler p s).state := by
  rw [Machine.interpret]
  split
  · next e =>
    refine hh _ ?_ h
    simp only [lengthFits, Bool.and_eq_true, decide_eq_true_eq] at e
    rw [List.length_take]; omega
  · exact h

theorem KeepsRequests.controlArrival (q : KeepsRequests P) (k : KeepsWork P) {kind : Byte} {p : Request}
    {carry : Request → State → Handled} (hc : ∀ {s}, P s → P (carry p s).state) (h : P s) :
    P (controlArrival kind p carry s) := by
  have answered {u : State} (hu : P u) : P (Machine.answer kind p (carry p u)) := q.answer _ _ (hc hu)
  have forwarded : P (forward (controlBytes kind p) (Machine.finishWork s)) := q.out _ (k.finishWork h)
  simp only [Machine.controlArrival]
  repeat' split
  · exact answered (k.finishWork h)
  · exact answered forwarded
  · exact forwarded
  · exact h

theorem KeepsRequests.softResetArrival (q : KeepsRequests P) (k : KeepsWork P) (p : Request) (h : P s) :
    P (softResetArrival p s) := by
  have answered {u : State} (hu : P u) : P (Machine.answerSoftReset p
      (Machine.interpret (fun n => decide (n = 0)) (fun _ t => accept .ok t) p u)) := by
    have carried := interpret_keeps (fits := fun n => decide (n = 0)) (handler := fun _ t => accept .ok t)
      (p := p) (fun _ _ h => h) hu
    rw [answerSoftReset]
    split
    · exact q.softReset _ carried
    · exact q.answer _ _ carried
  have forwarded : P (forward (controlBytes 14#8 p) (Machine.finishWork s)) := q.out _ (k.finishWork h)
  simp only [Machine.softResetArrival]
  repeat' split
  · exact answered (k.finishWork h)
  · exact answered forwarded
  · exact forwarded
  · exact h

theorem KeepsRequests.setDeviceArrival (q : KeepsRequests P) (k : KeepsWork P) (p : Request) (h : P s) :
    P (setDeviceArrival p s) := q.controlArrival k (interpret_keeps fun b _ => q.doSetDevice b) h

theorem KeepsRequests.loadLineArrival (q : KeepsRequests P) (k : KeepsWork P) (p : Request) (h : P s) :
    P (loadLineArrival p s) := q.controlArrival k (interpret_keeps fun b _ => q.doLoadLine b) h

theorem KeepsRequests.loadServiceArrival (q : KeepsRequests P) (k : KeepsWork P) (p : Request) (h : P s) :
    P (loadServiceArrival p s) := q.controlArrival k (interpret_keeps fun b _ => q.doLoadService k b) h

theorem KeepsRequests.loadSlotmapArrival (q : KeepsRequests P) (k : KeepsWork P) (p : Request) (h : P s) :
    P (loadSlotmapArrival p s) := q.controlArrival k (interpret_keeps fun b _ => q.doLoadSlotmap b) h

theorem KeepsRequests.loadStoryArrival (q : KeepsRequests P) (k : KeepsWork P) (p : Request) (h : P s) :
    P (loadStoryArrival p s) := q.controlArrival k (interpret_keeps fun b _ => q.doLoadStory b) h

theorem KeepsRequests.loadCueArrival (q : KeepsRequests P) (k : KeepsWork P) (p : Request) (h : P s) :
    P (loadCueArrival p s) := q.controlArrival k (interpret_keeps q.doLoadCue) h

theorem KeepsRequests.loadGpiArrival (q : KeepsRequests P) (k : KeepsWork P) (p : Request) (h : P s) :
    P (loadGpiArrival p s) := q.controlArrival k (interpret_keeps fun b _ => q.doLoadGpi b) h

theorem KeepsRequests.armArrival (q : KeepsRequests P) (k : KeepsWork P) (p : Request) (h : P s) :
    P (armArrival p s) := q.controlArrival k (interpret_keeps fun b _ => q.doArm b) h

theorem KeepsRequests.advanceArrival (q : KeepsRequests P) (k : KeepsWork P) (p : Request) (h : P s) :
    P (advanceArrival p s) := q.controlArrival k (interpret_keeps fun b _ => q.doAdvance k b) h

theorem KeepsRequests.cancelArrival (q : KeepsRequests P) (k : KeepsWork P) (p : Request) (h : P s) :
    P (cancelArrival p s) := q.controlArrival k (interpret_keeps fun b _ => q.doCancel k b) h

theorem KeepsRequests.selectArrival (q : KeepsRequests P) (k : KeepsWork P) (p : Request) (h : P s) :
    P (selectArrival p s) := q.controlArrival k (interpret_keeps fun b _ => q.doSelect k b) h

theorem KeepsRequests.clearArrival (q : KeepsRequests P) (k : KeepsWork P) (p : Request) (h : P s) :
    P (clearArrival p s) := q.controlArrival k (interpret_keeps fun b _ => q.doClear k b) h

theorem KeepsRequests.restartArrival (q : KeepsRequests P) (k : KeepsWork P) (p : Request) (h : P s) :
    P (restartArrival p s) := q.controlArrival k (interpret_keeps fun b _ => q.doRestart k b) h

theorem KeepsRequests.queryArrival (q : KeepsRequests P) (k : KeepsWork P) (p : Request) (h : P s) :
    P (queryArrival p s) := q.controlArrival k (interpret_keeps fun b _ => q.doQuery b) h

theorem KeepsRequests.unknownArrival (q : KeepsRequests P) (k : KeepsWork P) (kind : Byte) (p : Request)
    (h : P s) : P (unknownArrival kind p s) := q.controlArrival k (fun h => h) h

theorem KeepsRequests.arrivalOfKind (q : KeepsRequests P) (k : KeepsWork P) (kind : Byte) (p : Request)
    (h : P s) : P (arrivalOfKind kind p s) := by
  rw [Machine.arrivalOfKind]
  split
  · exact q.setDeviceArrival k p h
  · exact q.loadLineArrival k p h
  · exact q.loadServiceArrival k p h
  · exact q.loadSlotmapArrival k p h
  · exact q.loadStoryArrival k p h
  · exact q.loadCueArrival k p h
  · exact q.loadGpiArrival k p h
  · exact q.armArrival k p h
  · exact q.advanceArrival k p h
  · exact q.cancelArrival k p h
  · exact q.selectArrival k p h
  · exact q.clearArrival k p h
  · exact q.restartArrival k p h
  · exact q.softResetArrival k p h
  · exact q.queryArrival k p h
  · exact q.unknownArrival k kind p h

theorem KeepsRequests.ancillary (q : KeepsRequests P) (k : KeepsWork P) (packet : List Byte) (h : P s) :
    P (ancillary packet s) := by
  unfold Machine.ancillary
  repeat' split
  · exact h
  · exact q.arrivalOfKind k _ _ h
  · exact q.out _ (k.finishWork h)
  · exact h
  · exact q.out _ h
  · exact h
  · exact h

/-! ### Commands -/

theorem whenAwake_keeps {f : State → State} (hf : P s → P (f s)) (h : P s) : P (whenAwake s f) := by
  rw [whenAwake]
  split
  · exact h
  · exact hf h

theorem KeepsWire.character (w : KeepsWire P) (k : KeepsWork P) (l : LineIx) (data : Byte)
    (pbit stop : Bool) (h : P s) : P (character l data pbit stop s) := by
  rw [Machine.character]
  repeat' split
  · exact k.settle (w.receive l _ data pbit stop h)
  · exact w.passOver l h
  · exact h

/-- What one command keeps: the laws that the parts it is made of keep. -/
theorem exec_keeps {c : Instr} (e : exec c s = .next t) (k : KeepsWork P) (wire : KeepsWire P)
    (carriage : KeepsCarriage P) (requests : c.carriesPacket = true → KeepsRequests P)
    (frames : c.movesFrame = true → KeepsFrames P)
    (resets : c.isReset = true → P s → exec c s = .next t → P t) (h : P s) : P t := by
  have named (w : Work) : P (whenAwake s (runWork w)) := whenAwake_keeps (k.runWork w) h
  cases c <;> obtain rfl := Host.Outcome.next.inj e
  case powerOnReset | resetPinAssert | resetPinRelease => exact resets rfl h rfl
  case frameStart levels => exact whenAwake_keeps ((frames rfl).realFrame k levels) h
  case lossThresholdExpiry =>
    refine whenAwake_keeps (fun h => ?_) h
    split
    · exact (frames rfl).loseReference k carriage _ _ _ _ h
    · exact h
  case frameTimerExpiry =>
    refine whenAwake_keeps (fun h => ?_) h
    split
    · exact (frames rfl).freeTimer ((frames rfl).internalFrame k carriage _ _ (k.finishWork h))
    · exact h
  case carriagePoint d =>
    split
    · exact k.realCarriage carriage d (k.finishWork h)
    · exact h
  case captionPacketRemoved p => exact (requests rfl).ancillary k p h
  case controlPacketForwarded p => exact (requests rfl).ancillary k p h
  case unknownRequest b p => exact (requests rfl).arrivalOfKind k b p h
  case setDevice p => exact (requests rfl).setDeviceArrival k p h
  case loadLine p => exact (requests rfl).loadLineArrival k p h
  case loadService p => exact (requests rfl).loadServiceArrival k p h
  case loadSlotmap p => exact (requests rfl).loadSlotmapArrival k p h
  case loadStory p => exact (requests rfl).loadStoryArrival k p h
  case loadCue p => exact (requests rfl).loadCueArrival k p h
  case loadGpi p => exact (requests rfl).loadGpiArrival k p h
  case arm p => exact (requests rfl).armArrival k p h
  case advance p => exact (requests rfl).advanceArrival k p h
  case cancel p => exact (requests rfl).cancelArrival k p h
  case select p => exact (requests rfl).selectArrival k p h
  case clear p => exact (requests rfl).clearArrival k p h
  case restart p => exact (requests rfl).restartArrival k p h
  case softReset p => exact (requests rfl).softResetArrival k p h
  case query p => exact (requests rfl).queryArrival k p h
  case characterReceived l d b b' => exact whenAwake_keeps (wire.character k l d b b') h
  case transmitComplete l => exact whenAwake_keeps (wire.sent l) h
  case startBitDetected l b => exact whenAwake_keeps (wire.startBit l b) h
  case wireSeenHigh l => exact whenAwake_keeps (wire.wireHigh l) h
  case popOnTake => exact whenAwake_keeps (k.takeReaction k.take) h
  case pendingClosing => exact whenAwake_keeps (k.takeReaction k.carryOut) h
  case cueBlockFormation => exact whenAwake_keeps (k.takeReaction k.form) h
  all_goals exact named _

/-- What one step keeps, where the waiting commands are not part of the law. -/
theorem step_keeps {P : State → Prop} (waiting : ∀ {s} (q : List Instr), P s → P { s with pending := q })
    (k : KeepsWork P) (wire : KeepsWire P) (carriage : KeepsCarriage P) (requests : KeepsRequests P)
    (frames : KeepsFrames P)
    (resets : ∀ {c : Instr} {s t}, c.isReset = true → P s → exec c s = .next t → P t)
    {s t : State} (h : P s) (e : step s = .next t) : P t := by
  rw [step] at e
  split at e
  · obtain rfl := Host.Outcome.next.inj e
    rw [idle]
    split
    · exact h
    · exact whenAwake_keeps (k.doWork _) h
  · exact exec_keeps e k wire carriage (fun _ => requests) (fun _ => frames) resets (waiting _ h)

end Sys2Proof.Machine
end

section
/-! What the assembly of a packet, a received character and a request leave alone, and the obligations that
follow: every command completes, and only some commands move the frame port or change the tables. -/

namespace Sys2Proof.Machine

/-! ### The assembly of a packet -/

/-- From s to t nothing has changed but the builders and output FIFOs of the services, and the counts of
what was discarded under mutes. -/
def BuildsAny (s t : State) : Prop :=
  t = { s with services := t.services } ∧ ∀ v, ∃ (c : Builder) (o : Carriage) (n : Count),
    t.service v = { s.service v with cb := c, om := o, sel := { (s.service v).sel with muteDiscards := n } }

namespace BuildsAny

variable {s t u : State}

theorem refl (s : State) : BuildsAny s s :=
  ⟨rfl, fun v => ⟨(s.service v).cb, (s.service v).om, (s.service v).sel.muteDiscards, rfl⟩⟩

theorem trans (h : BuildsAny s t) (g : BuildsAny t u) : BuildsAny s u := by
  refine ⟨by rw [g.1, h.1], fun v => ?_⟩
  obtain ⟨c, o, n, e⟩ := h.2 v
  obtain ⟨c', o', n', e'⟩ := g.2 v
  exact ⟨c', o', n', by rw [e', e]⟩

theorem of_builds {v : ServiceIx} (h : Builds v s t) : BuildsAny s t := by
  refine ⟨h.frame, fun w => ?_⟩
  by_cases hw : w = v
  · subst hw; exact h.service
  · rw [h.other hw]; exact (refl s).2 w

theorem lines (h : BuildsAny s t) : t.lines = s.lines := by rw [h.1]

theorem ci (h : BuildsAny s t) : t.ci = s.ci := by rw [h.1]

theorem record (h : BuildsAny s t) (v : ServiceIx) : (t.service v).record = (s.service v).record := by
  obtain ⟨c, o, n, e⟩ := h.2 v; rw [e]

theorem runner (h : BuildsAny s t) (v : ServiceIx) : (t.service v).runner = (s.service v).runner := by
  obtain ⟨c, o, n, e⟩ := h.2 v; rw [e]

theorem mode (h : BuildsAny s t) (v : ServiceIx) :
    (t.service v).sel.mode = (s.service v).sel.mode := by
  obtain ⟨c, o, n, e⟩ := h.2 v; rw [e]

theorem settings (h : BuildsAny s t) : t.settings = s.settings := by
  have e : t.services.map Service.record = s.services.map Service.record :=
    Quad.ext_get fun v => by rw [Quad.get_map, Quad.get_map]; exact h.record v
  have frame := h.1
  simp only [State.settings, e]
  rw [frame]

end BuildsAny

theorem foldl_keeps {α β : Type} {P : β → Prop} {f : β → α → β} (hf : ∀ b a, P b → P (f b a))
    (as : List α) {b : β} (h : P b) : P (as.foldl f b) := by
  induction as generalizing b with
  | nil => exact h
  | cons a as ih => exact ih (hf _ _ h)

theorem buildsAny_assembleOne (r : Bool) (n : Frame) (room : Nat) (a : Assembly) (v : ServiceIx) :
    BuildsAny a.state (assembleOne r n room a v).state :=
  .of_builds (builds_serveRound ..)

theorem buildsAny_round1 (n : Frame) (s : State) : BuildsAny s (round1 n s).state :=
  foldl_keeps (P := fun a : Assembly => BuildsAny s a.state)
    (fun _ _ h => h.trans (buildsAny_assembleOne ..)) _ (.refl s)

theorem buildsAny_round2 (n : Frame) (a : Assembly) : BuildsAny a.state (round2 n a).state :=
  foldl_keeps (P := fun b : Assembly => BuildsAny a.state b.state)
    (fun _ _ h => h.trans (buildsAny_assembleOne ..)) _ (.refl _)

theorem buildsAny_countStarved (n : Frame) (before : State) (placed : List (ServiceIx × OutUnit))
    (s : State) : BuildsAny s (countStarved n before placed s) := by
  refine forServices_keeps (P := BuildsAny s) (fun v t h => ?_) (.refl s)
  split
  · exact h.trans (.of_builds (Builds.updOm ..))
  · exact h

theorem applyMap_eq (s : State) :
    applyMap s = { s with slotMap := s.pendingMap.getD s.slotMap, pendingMap := none } := by
  rw [applyMap]
  split
  · next e => rw [e]; rfl
  · next e => rw [e]; simp only [Option.getD_none]; rw [← e]

/-- Whatever the FIFOs hold, the assembly changes builders and FIFOs, and takes the pending map. -/
theorem buildsAny_assemble (s : State) : BuildsAny (applyMap s) (assemble s).state :=
  ((buildsAny_round1 ..).trans (buildsAny_round2 ..)).trans (buildsAny_countStarved ..)

theorem settings_assemble (s : State) : (assemble s).state.settings =
    { s.settings with slotMap := s.pendingMap.getD s.slotMap, pendingMap := none } := by
  rw [(buildsAny_assemble s).settings, applyMap_eq]; rfl

/-! ### A received character -/

@[simp] theorem record_appendIntake (i : IntakeItem) (x : Line) :
    (appendIntake i x).record = x.record := by
  simp only [appendIntake]; split <;> simp

@[simp] theorem settings_overrun (l : LineIx) (s : State) : (overrun l s).settings = s.settings := by
  have e : (s.updLine l fun x => { x with overruns := bump x.overruns, overrunOpen := true }).settings =
      s.settings := settings_updLine rfl
  simp only [overrun]; split <;> simp [e]

@[simp] theorem settings_handOn (l : LineIx) (i : IntakeItem) (s : State) :
    (handOn l i s).settings = s.settings := by
  rw [handOn]; repeat' split
  · simp
  · exact settings_updLine (record_appendIntake _ _)
  · simp

@[simp] theorem settings_receive (l : LineIx) (r : LineRecord) (data : Byte) (pbit stop : Bool)
    (s : State) : (receive l r data pbit stop s).settings = s.settings := by
  have counted (f p : Bool) : (s.updLine l (countCharacter s.pfn f p)).settings = s.settings :=
    settings_updLine rfl
  simp only [receive]; repeat' split
  all_goals simp [counted]

@[simp] theorem record_startBit (b : Bool) (x : Line) : (startBit b x).record = x.record := by
  rw [startBit]; split <;> rfl

@[simp] theorem record_wireHigh (x : Line) : (wireHigh x).record = x.record := by
  rw [wireHigh]; split <;> rfl

@[simp] theorem record_sent (x : Line) : (sent x).record = x.record := by
  rw [sent]; split <;> simp

@[simp] theorem record_passOver (x : Line) : (passOver x).record = x.record := by
  rw [passOver]; split <;> rfl

/-! ### Laws of the settings -/

section

variable {α : Type} {g : Settings → α} {a : α}

/-- Work and reactions keep what is read off the settings, but for the agenda. -/
theorem keepsWork_settings (hg : ∀ z ws, g { z with due := ws } = g z) :
    KeepsWork fun t => g t.settings = a where
  agenda ws h := (hg _ ws).trans h
  carryOut e h := by rw [settings_carryOutClosing e]; exact h
  form e h := by rw [settings_formBlock e]; exact h
  take e h := by rw [settings_takeHead e]; exact h
  retry l h := by rw [settings_retryHeld]; exact h
  hand e h := by rw [settings_handItem e]; exact h
  perform w h := by rw [settings_perform]; exact h

theorem keepsWire_settings : KeepsWire fun t => g t.settings = a where
  startBit l b h := by rw [settings_updLine (record_startBit ..)]; exact h
  wireHigh l h := by rw [settings_updLine (record_wireHigh ..)]; exact h
  sent l h := by rw [settings_updLine (record_sent ..)]; exact h
  passOver l h := by rw [settings_updLine (record_passOver ..)]; exact h
  receive l r d b b' h := by rw [settings_receive]; exact h

theorem keepsCarriage_settings (hg : ∀ z m p o, g { z with slotMap := m, pendingMap := p, out := o } = g z) :
    KeepsCarriage fun t => g t.settings = a where
  out {s} o h := (hg s.settings s.slotMap s.pendingMap o).trans h
  assemble {s} h := by
    rw [settings_assemble]; exact (hg s.settings _ _ s.out).trans h
  reportGone h := h

end

/-! ### Requests, frame starts and the settings -/

@[simp] theorem settings_restartService (v : ServiceIx) (s : State) :
    (restartService v s).settings = s.settings := by
  rw [restartService, settings_lines, settings_updService rfl]
  intro x; rfl

/-- What is read off the settings alone, with no regard to what a request may change of them, is kept by
every request. -/
theorem keepsRequests_settings {α : Type} {g : Settings → α} {a : α}
    (tables : ∀ z d sts cs pm ls ss is o, g { z with
      device := d, stories := sts, cues := cs, pendingMap := pm, lineRecords := ls, serviceRecords := ss,
      inputRecords := is, out := o } = g z) : KeepsRequests fun t => g t.settings = a := by
  have same {s t : State} (d : t.settings = { s.settings with
      device := t.device, stories := t.stories, cues := t.cues, pendingMap := t.pendingMap
      lineRecords := t.lines.map Line.record, serviceRecords := t.services.map Service.record
      inputRecords := t.inputs.map Input.record, out := t.out }) (h : g s.settings = a) :
      g t.settings = a := by
    rw [d]; exact (tables ..).trans h
  exact {
    out := fun _ h => same rfl h
    answer := fun _ _ h => h
    softReset := fun {s} _ h => same (s := s) rfl h
    setDevice := fun _ h => same rfl h
    loadLine := fun _ h => same rfl h
    loadService := fun _ _ _ h => same rfl h
    close := fun v h => by rw [settings_closeOpen]; exact h
    restart := fun v h => by rw [settings_restartService]; exact h
    slotMap := fun _ h => same rfl h
    story := fun _ _ h => same rfl h
    cue := fun _ _ _ h => same rfl h
    gpi := fun _ h => same rfl h
    arm := fun _ _ _ h => by rw [settings_updRunner]; exact h
    issue := fun _ e h => by rw [settings_issueCue e]; exact h
    refused := fun v h => by rw [settings_cueRefused]; exact h
    disarm := fun v h => by rw [settings_updRunner]; exact h
    drain := fun _ h => by rw [settings_startDrain]; exact h
    mode := fun v m h => by rw [settings_setMode]; exact h
    switch := fun v c h => by rw [settings_switchLine]; exact h
    clear := fun v h => by rw [settings_clearService]; exact h
    noticed := fun h => h
    figuresRead := fun v h => by rw [settings_updSched]; exact h }

/-! ### Every command completes -/

theorem settings_beginFrame (levels : BitVec 8) (s : State) :
    (beginFrame levels s).settings =
      { s.settings with pfn := s.pfn + 1, due := frameStartWork, out := [] } := by
  have sampled (i : InputIx) (u : State) : (u.updInput i (sample (levels.getLsbD i.val))).settings =
      u.settings := settings_updInput (by rw [sample]; repeat' split
                                          all_goals rfl)
  have held (u : State) : (holdPast u).settings = u.settings := rfl
  have all (u : State) : (forInputs (fun i t => t.updInput i (sample (levels.getLsbD i.val))) u).settings =
      u.settings :=
    forInputs_keeps (P := fun t => t.settings = u.settings) (fun i t h => (sampled i t).trans h) rfl
  have started (u : State) : ({ u with due := frameStartWork, out := [] } : State).settings =
      { u.settings with due := frameStartWork, out := [] } := rfl
  rw [beginFrame]
  dsimp only
  rw [started, all, held]
  rfl

theorem keepsFrames_pending (a : List Instr) : KeepsFrames fun t => t.settings.pending = a where
  begin_ levels h := by rw [settings_beginFrame]; exact h
  port _ _ _ _ h := h
  raise _ h := h

/-- Every command answers a next state. -/
theorem exec_eq_next (c : Instr) (s : State) : ∃ t, exec c s = .next t := by
  cases c <;> exact ⟨_, rfl⟩

/-- Settles O2: the waiting commands are read off the settings, and no command touches them. -/
theorem everyCommandCompletes : Obligations.EveryCommandCompletes := by
  intro c s
  obtain ⟨t, e⟩ := exec_eq_next c s
  refine ⟨t, e, ?_⟩
  refine exec_keeps (P := fun t => t.settings.pending = s.pending) e
    (keepsWork_settings fun _ _ => rfl) keepsWire_settings (keepsCarriage_settings fun _ _ _ _ => rfl)
    (fun _ => keepsRequests_settings fun _ _ _ _ _ _ _ _ _ => rfl) (fun _ => keepsFrames_pending _) ?_ rfl
  intro reset h e
  cases c
  case powerOnReset | resetPinAssert | resetPinRelease => obtain rfl := Host.Outcome.next.inj e; rfl
  all_goals cases reset

/-! ### What moves the frame port -/

/-- PFN, the reference state and the frame timer. -/
def Settings.port (z : Settings) : Frame × RefState × FrameTimer := (z.pfn, z.ref, z.timer)

theorem port_of_not_movesFrame {c : Instr} {s t : State} (e : exec c s = .next t)
    (still : c.movesFrame = false) : t.settings.port = s.settings.port := by
  refine exec_keeps (P := fun t => t.settings.port = s.settings.port) e
    (keepsWork_settings fun _ _ => rfl) keepsWire_settings (keepsCarriage_settings fun _ _ _ _ => rfl)
    (fun _ => keepsRequests_settings fun _ _ _ _ _ _ _ _ _ => rfl) (by simp [still]) ?_ rfl
  intro reset h e
  cases c
  case resetPinAssert => obtain rfl := Host.Outcome.next.inj e; rfl
  all_goals first
    | exact Bool.noConfusion reset
    | exact Bool.noConfusion still

@[simp] theorem settings_drainsFirst (d : BitVec 4) (s : State) :
    (drainsFirst d s).settings = s.settings :=
  forServices_keeps (P := fun t => t.settings = s.settings)
    (fun v t h => by split <;> simp [h]) rfl

@[simp] theorem settings_appendAll (s : State) : (appendAll s).settings = s.settings :=
  forServices_keeps (P := fun t => t.settings = s.settings) (fun v t h => by simp [h]) rfl

theorem settings_setDue (s : State) (ws : List Work) :
    ({ s with due := ws } : State).settings = { s.settings with due := ws } := rfl

theorem settings_setInternalFrames (s : State) (n : BitVec 32) :
    ({ s with internalFrames := n } : State).settings = { s.settings with internalFrames := n } := rfl

theorem pendingMap_eq_settings (s : State) : s.pendingMap = s.settings.pendingMap := rfl

theorem slotMap_eq_settings (s : State) : s.slotMap = s.settings.slotMap := rfl

theorem ref_eq_settings (s : State) : s.ref = s.settings.ref := rfl

theorem internalFrames_eq_settings (s : State) : s.internalFrames = s.settings.internalFrames := rfl

/-- An internal carriage point takes the pending map, and leaves no work due. -/
theorem settings_internalCarriage (d : BitVec 4) (s : State) : (internalCarriage d s).settings =
    { s.settings with slotMap := s.pendingMap.getD s.slotMap, pendingMap := none, due := [] } := by
  rw [internalCarriage]
  dsimp only
  rw [settings_finishWork, settings_setDue, settings_appendAll, settings_assemble,
    pendingMap_eq_settings (drainsFirst d s), slotMap_eq_settings (drainsFirst d s),
    settings_drainsFirst]
  rfl

/-- Pieces of work taken by name leave the settings as they were, the agenda aside. -/
theorem settings_runAll (ws : List Work) (s : State) :
    { (ws.foldl (fun t w => runWork w t) s).settings with due := [] } = { s.settings with due := [] } :=
  (keepsWork_settings (g := fun z => { z with due := [] }) fun _ _ => rfl).runAll ws (s := s) rfl

/-- The settings after one internal frame. -/
theorem settings_internalFrame (levels : BitVec 8) (f : InternalFrame) (s : State) :
    (internalFrame levels f s).settings =
      { s.settings with pfn := s.pfn + 1, internalFrames := s.internalFrames + 1, due := [], out := []
                        slotMap := s.pendingMap.getD s.slotMap, pendingMap := none } := by
  obtain ⟨b, begun, started⟩ : ∃ b, b.settings = { s.settings with
      pfn := s.pfn + 1, due := frameStartWork, out := [] } ∧ beginFrame levels s = b :=
    ⟨_, settings_beginFrame levels s, rfl⟩
  obtain ⟨w, worked, taken⟩ : ∃ w, w.settings = { s.settings with
      pfn := s.pfn + 1, internalFrames := s.internalFrames + 1, due := [], out := [] } ∧
      internalFrame levels f s = internalCarriage f.drainFirst w := by
    refine ⟨finishWork (f.order.foldl (fun t w => runWork w t)
      { b with internalFrames := b.internalFrames + 1 }), ?_, by rw [internalFrame, started]⟩
    rw [settings_finishWork, settings_runAll, settings_setInternalFrames, begun,
      internalFrames_eq_settings b, begun]
    rfl
  rw [taken, settings_internalCarriage, pendingMap_eq_settings w, slotMap_eq_settings w, worked]
  rfl

theorem ref_realFrame (levels : BitVec 8) (s : State) : (realFrame levels s).ref = .locked := by
  rw [realFrame]; split <;> rfl

theorem ref_internalFrame (levels : BitVec 8) (f : InternalFrame) (s : State) :
    (internalFrame levels f s).ref = s.ref := by
  rw [ref_eq_settings, settings_internalFrame]
  rfl

theorem ref_loseReference (levels : BitVec 8) (f g h : InternalFrame) (s : State) :
    (loseReference levels f g h s).ref = .freewheel := by
  simp only [loseReference, freeTimer, ref_internalFrame]
  simp only [raise, ref_updCi]

theorem ref_finishWork (s : State) : (finishWork s).ref = s.ref := by
  rw [ref_eq_settings, settings_finishWork]
  rfl

/-- Settles O10: the port is read off the settings, and each frame start or expiry names the reference state
that it leads to. -/
theorem framePortMovesOnly : Obligations.FramePortMovesOnly := by
  intro c s t e
  refine ⟨fun still => ?_, fun noReset begun => ?_⟩
  · have port := port_of_not_movesFrame e still
    simp only [Settings.port, Prod.mk.injEq] at port
    exact port
  · cases moves : c.movesFrame
    case false =>
      have port := port_of_not_movesFrame e moves
      simp only [Settings.port, Prod.mk.injEq] at port
      rw [show t.ref = s.ref from port.2.1]; exact begun
    cases c
    case frameStart levels =>
      obtain rfl := Host.Outcome.next.inj e
      rw [whenAwake]
      split
      · exact begun
      · rw [ref_realFrame]; simp
    case lossThresholdExpiry =>
      obtain rfl := Host.Outcome.next.inj e
      rw [whenAwake]
      repeat' split
      · exact begun
      · rw [ref_loseReference]; simp
      · exact begun
    case frameTimerExpiry =>
      obtain rfl := Host.Outcome.next.inj e
      rw [whenAwake]
      repeat' split
      · exact begun
      · next free => rw [freeTimer, ref_internalFrame, ref_finishWork]; exact begun
      · exact begun
    all_goals first
      | exact Bool.noConfusion noReset
      | exact Bool.noConfusion moves

/-! ### What changes the tables -/

/-- The tables that only packets and resets change. -/
def Settings.tables (z : Settings) :
    DeviceRecord × List (Nat × Story) × List (Nat × Cue) × Quad LineRecord × Quad ServiceRecord ×
      Oct GpiRecord :=
  (z.device, z.stories, z.cues, z.lineRecords, z.serviceRecords, z.inputRecords)

/-- The slot maps are those of z, or z's pending map has taken effect. -/
def Settings.mapsFrom (z y : Settings) : Prop :=
  y.slotMap = z.slotMap ∧ y.pendingMap = z.pendingMap ∨
    y.slotMap = z.pendingMap.getD z.slotMap ∧ y.pendingMap = none

theorem mapsFrom_apply {z y : Settings} (h : z.mapsFrom y) :
    z.mapsFrom { y with slotMap := y.pendingMap.getD y.slotMap, pendingMap := none } := by
  obtain ⟨map, pending⟩ | ⟨map, pending⟩ := h
  · exact .inr ⟨by rw [map, pending], rfl⟩
  · exact .inr ⟨by rw [pending]; exact map, rfl⟩

/-- Settles O11: the tables are read off the settings; a carriage point alone touches the slot maps. -/
theorem tablesChangeByPacketsOnly : Obligations.TablesChangeByPacketsOnly := by
  intro c s t e noReset noPacket
  have kept : t.settings.tables = s.settings.tables := by
    refine exec_keeps (P := fun t => t.settings.tables = s.settings.tables) e
      (keepsWork_settings fun _ _ => rfl) keepsWire_settings (keepsCarriage_settings fun _ _ _ _ => rfl)
      (by simp [noPacket]) (fun _ => ?_) (by simp [noReset]) rfl
    exact { begin_ := fun levels h => by rw [settings_beginFrame]; exact h
            port := fun _ _ _ _ h => h
            raise := fun _ h => h }
  have maps : s.settings.mapsFrom t.settings := by
    have ofEq {g : Settings → Prop} (h : KeepsWork fun t => g t.settings = True) :
        KeepsWork fun t => g t.settings := by simpa using h
    have ofEq' {g : Settings → Prop} (h : KeepsWire fun t => g t.settings = True) :
        KeepsWire fun t => g t.settings := by simpa using h
    refine exec_keeps (P := fun t => s.settings.mapsFrom t.settings) e
      (ofEq (keepsWork_settings fun _ _ => rfl)) (ofEq' keepsWire_settings) ?_
      (by simp [noPacket]) (fun _ => ?_) (by simp [noReset]) (.inl ⟨rfl, rfl⟩)
    · exact { out := fun _ h => h
              assemble := fun h => by rw [settings_assemble]; exact mapsFrom_apply h
              reportGone := fun h => h }
    · exact { begin_ := fun levels h => by rw [settings_beginFrame]; exact h
              port := fun _ _ _ _ h => h
              raise := fun _ h => h }
  simp only [Settings.tables, Prod.mk.injEq] at kept
  obtain ⟨device, stories, cues, lines, services, inputs⟩ := kept
  refine ⟨device, stories, cues, fun l => ?_, fun v => ?_, fun i => ?_, maps⟩
  · simpa [State.settings, State.line] using congrArg (fun q => Quad.get q l) lines
  · simpa [State.settings, State.service] using congrArg (fun q => Quad.get q v) services
  · simpa [State.settings, State.input] using congrArg (fun q => Oct.get q i) inputs

end Sys2Proof.Machine
end

section
/-! What one service gives in one round of the packet assembly (R145, R147). -/

namespace Sys2Proof.Machine

/-- The glyphs of a unit, none for a unit of another kind. -/
def unitGlyphs (u : OutUnit) : List Byte :=
  match u.kind with
  | .glyphs gs => gs
  | _ => []

/-- The unit stops a service that has `room` bytes left: it is not eligible, or it does not fit and is no
GLYPHS unit that can be split. -/
def Stops (n : Frame) (room : Nat) (u : OutUnit) : Prop :=
  eligible n u = false ∨ room < unitCost u ∧ (3 ≤ room → ∀ gs, u.kind ≠ .glyphs gs)

/-- Nothing taken from a FIFO. -/
def takenNone (fifo : List OutUnit) : Taken := { units := [], rest := fifo, used := 0, split := false }

/-- A whole unit taken before what `t` takes. -/
def takenWhole (u : OutUnit) (t : Taken) : Taken :=
  { t with units := u :: t.units, used := unitCost u + t.used }

/-- A GLYPHS unit at the head split to fill the room. -/
def takenSplit (room : Nat) (u : OutUnit) (gs : List Byte) (us : List OutUnit) : Taken :=
  { units := [plainUnit (.glyphs (gs.take (room - 2)))]
    rest := { u with kind := .glyphs (gs.drop (room - 2)) } :: us, used := room, split := true }

theorem unitCost_glyphs {u : OutUnit} {gs : List Byte} (h : u.kind = .glyphs gs) :
    unitCost u = 2 + gs.length := by
  rw [unitCost, h]

/-- What can be done with the head of a FIFO: it leaves whole, it is split, or it stops the service. -/
theorem takeUnits_cons (n : Frame) (u : OutUnit) (us : List OutUnit) (room : Nat) :
    (eligible n u = true ∧ unitCost u ≤ room ∧
      takeUnits n (u :: us) room = takenWhole u (takeUnits n us (room - unitCost u))) ∨
    (∃ gs, u.kind = .glyphs gs ∧ eligible n u = true ∧ 3 ≤ room ∧ room < 2 + gs.length ∧
      takeUnits n (u :: us) room = takenSplit room u gs us) ∨
    (Stops n room u ∧ takeUnits n (u :: us) room = takenNone (u :: us)) := by
  rw [takeUnits]
  split
  next away =>
    split
    next fits => exact .inl ⟨away, fits, rfl⟩
    next large =>
      split
      next gs glyphs =>
        rw [unitCost_glyphs glyphs] at large
        split
        next room3 => exact .inr (.inl ⟨gs, glyphs, away, room3, by omega, rfl⟩)
        next narrow =>
          exact .inr (.inr ⟨.inr ⟨by rw [unitCost_glyphs glyphs]; omega, fun h => absurd h narrow⟩, rfl⟩)
      next other => exact .inr (.inr ⟨.inr ⟨by omega, fun _ => other⟩, rfl⟩)
  next waits => exact .inr (.inr ⟨.inl (by simpa using waits), rfl⟩)

theorem takeUnits_nil (n : Frame) (room : Nat) : takeUnits n [] room = takenNone [] := rfl

/-- What is used is the cost of the units taken, within the room. -/
theorem used_takeUnits (n : Frame) (fifo : List OutUnit) (room : Nat) :
    (takeUnits n fifo room).used = unitsCost (takeUnits n fifo room).units ∧
      (takeUnits n fifo room).used ≤ room := by
  induction fifo generalizing room with
  | nil => exact ⟨rfl, Nat.zero_le _⟩
  | cons u us ih =>
    obtain ⟨-, fits, e⟩ | ⟨gs, -, -, room3, large, e⟩ | ⟨-, e⟩ := takeUnits_cons n u us room
    · obtain ⟨cost, within⟩ := ih (room - unitCost u)
      rw [e]
      simp only [takenWhole, unitsCost_cons]
      omega
    · rw [e]
      simp only [takenSplit, unitsCost_cons, unitsCost_nil, unitCost, plainUnit, List.length_take]
      omega
    · rw [e]; exact ⟨rfl, Nat.zero_le _⟩

theorem eligible_takeUnits (n : Frame) (fifo : List OutUnit) (room : Nat) :
    ∀ u ∈ (takeUnits n fifo room).units, eligible n u = true := by
  induction fifo generalizing room with
  | nil => simp [takeUnits_nil, takenNone]
  | cons u us ih =>
    obtain ⟨away, -, e⟩ | ⟨gs, -, -, -, -, e⟩ | ⟨-, e⟩ := takeUnits_cons n u us room
    · rw [e]
      intro x hx
      obtain rfl | hx := List.mem_cons.mp hx
      exacts [away, ih _ x hx]
    · rw [e]; simp [takenSplit, eligible, plainUnit]
    · rw [e]; simp [takenNone]

/-- No glyph is lost, and none changes its place. -/
theorem glyphs_takeUnits (n : Frame) (fifo : List OutUnit) (room : Nat) :
    (takeUnits n fifo room).units.flatMap unitGlyphs ++ (takeUnits n fifo room).rest.flatMap unitGlyphs =
      fifo.flatMap unitGlyphs := by
  induction fifo generalizing room with
  | nil => rfl
  | cons u us ih =>
    obtain ⟨-, -, e⟩ | ⟨gs, kind, -, -, -, e⟩ | ⟨-, e⟩ := takeUnits_cons n u us room
    · rw [e]; simpa [takenWhole] using ih (room - unitCost u)
    · rw [e]; simp [takenSplit, unitGlyphs, plainUnit, ← List.append_assoc, kind]
    · rw [e]; rfl

theorem append_takeUnits (n : Frame) (fifo : List OutUnit) (room : Nat)
    (h : (takeUnits n fifo room).split = false) :
    (takeUnits n fifo room).units ++ (takeUnits n fifo room).rest = fifo := by
  induction fifo generalizing room with
  | nil => rfl
  | cons u us ih =>
    obtain ⟨-, -, e⟩ | ⟨gs, -, -, -, -, e⟩ | ⟨-, e⟩ := takeUnits_cons n u us room
    · rw [e] at h ⊢
      exact congrArg (u :: ·) (ih (room - unitCost u) h)
    · rw [e] at h; cases h
    · rw [e]; rfl

/-- Where a unit was split: the units before it have left whole, and it has filled the room. -/
structure SplitAt (n : Frame) (fifo : List OutUnit) (room : Nat) (t : Taken) (before after : List OutUnit)
    (u : OutUnit) (gs : List Byte) : Prop where
  fifo_eq : fifo = before ++ u :: after
  kind : u.kind = .glyphs gs
  away : eligible n u = true
  room3 : 3 ≤ room - unitsCost before
  large : room - unitsCost before < gs.length + 2
  taken : t = { units := before ++ [plainUnit (.glyphs (gs.take (room - unitsCost before - 2)))]
                rest := { u with kind := .glyphs (gs.drop (room - unitsCost before - 2)) } :: after
                used := room, split := true }

theorem splitAt_takeUnits (n : Frame) (fifo : List OutUnit) (room : Nat)
    (h : (takeUnits n fifo room).split = true) :
    ∃ before after u gs, SplitAt n fifo room (takeUnits n fifo room) before after u gs := by
  induction fifo generalizing room with
  | nil => cases h
  | cons u us ih =>
    obtain ⟨-, fits, e⟩ | ⟨gs, kind, away, room3, large, e⟩ | ⟨-, e⟩ := takeUnits_cons n u us room
    · rw [e] at h ⊢
      obtain ⟨before, after, x, gs, at_⟩ := ih (room - unitCost u) h
      have left : room - unitsCost (u :: before) = room - unitCost u - unitsCost before := by
        rw [unitsCost_cons]; omega
      refine ⟨u :: before, after, x, gs, by rw [at_.fifo_eq]; rfl, at_.kind, at_.away, ?_, ?_, ?_⟩
      · rw [left]; exact at_.room3
      · rw [left]; exact at_.large
      · rw [at_.taken, left]
        simp only [takenWhole, List.cons_append, Taken.mk.injEq, true_and, and_true]
        omega
    · rw [e]
      exact ⟨[], us, u, gs, rfl, kind, away, room3, by simpa [Nat.add_comm] using large, rfl⟩
    · rw [e] at h; cases h

/-- A split leaves two bytes of header more than there were. -/
theorem SplitAt.cost {n : Frame} {fifo : List OutUnit} {room : Nat} {t : Taken}
    {before after : List OutUnit} {u : OutUnit} {gs : List Byte}
    (h : SplitAt n fifo room t before after u gs) :
    t.used + unitsCost t.rest = unitsCost fifo + 2 := by
  have room3 := h.room3
  have large := h.large
  rw [h.taken, h.fifo_eq]
  simp only [unitsCost_append, unitsCost_cons, unitCost_glyphs h.kind]
  simp only [unitCost, List.length_drop]
  omega

/-- Where the serving stops: at an empty FIFO, or at a head that the bytes left do not take. -/
theorem rest_takeUnits (n : Frame) (fifo : List OutUnit) (room : Nat) :
    (takeUnits n fifo room).rest = [] ∨ ∃ u us, (takeUnits n fifo room).rest = u :: us ∧
      (eligible n u = false ∨ room - (takeUnits n fifo room).used < unitCost u ∧
        ((takeUnits n fifo room).split = false → 3 ≤ room - (takeUnits n fifo room).used →
          ∀ gs, u.kind ≠ .glyphs gs)) := by
  induction fifo generalizing room with
  | nil => exact .inl rfl
  | cons u us ih =>
    obtain ⟨-, fits, e⟩ | ⟨gs, -, -, -, large, e⟩ | ⟨stops, e⟩ := takeUnits_cons n u us room
    · rw [e]
      have left : room - (takenWhole u (takeUnits n us (room - unitCost u))).used =
          room - unitCost u - (takeUnits n us (room - unitCost u)).used := by
        simp only [takenWhole]; omega
      rw [left]
      exact ih (room - unitCost u)
    · rw [e]
      refine .inr ⟨_, _, rfl, .inr ⟨?_, fun h => by cases h⟩⟩
      simp only [takenSplit, unitCost]
      omega
    · rw [e]
      refine .inr ⟨u, us, rfl, ?_⟩
      obtain waits | ⟨large, whole⟩ := stops
      · exact .inl waits
      · exact .inr ⟨large, fun _ => whole⟩

/-- Settles O19: each clause is one induction on the FIFO along `takeUnits_cons`. -/
theorem roundTakesHeads : Obligations.RoundTakesHeads := by
  intro n fifo room t glyphs
  refine ⟨(used_takeUnits n fifo room).1, (used_takeUnits n fifo room).2, eligible_takeUnits n fifo room,
    glyphs_takeUnits n fifo room, append_takeUnits n fifo room, fun split => ?_, rest_takeUnits n fifo room⟩
  obtain ⟨before, after, u, gs, at_⟩ := splitAt_takeUnits n fifo room split
  refine ⟨congrArg Taken.used at_.taken, at_.cost, before, after, u, gs, ?_⟩
  exact ⟨at_.fifo_eq, at_.kind, at_.away, at_.room3, at_.large, congrArg Taken.units at_.taken,
    congrArg Taken.rest at_.taken⟩

/-- What stays of a FIFO costs no more than the FIFO. -/
theorem cost_rest_takeUnits (n : Frame) (fifo : List OutUnit) (room : Nat) :
    unitsCost (takeUnits n fifo room).rest ≤ unitsCost fifo := by
  cases h : (takeUnits n fifo room).split
  case false =>
    have whole := congrArg unitsCost (append_takeUnits n fifo room h)
    rw [unitsCost_append] at whole
    omega
  case true =>
    obtain ⟨before, after, u, gs, at_⟩ := splitAt_takeUnits n fifo room h
    have cost := at_.cost
    have filled : (takeUnits n fifo room).used = room := congrArg Taken.used at_.taken
    have := at_.room3
    omega

end Sys2Proof.Machine
end

section
/-! The capacities (R21, R33, R39, R52, R74, R104, R134, R140, R155): every part of a step keeps them. -/

namespace Sys2Proof.Machine

theorem WithinCapacity.congr {s t : State} (h : WithinCapacity s) (lines : t.lines = s.lines)
    (services : t.services = s.services) (ci : t.ci = s.ci) : WithinCapacity t where
  lines l := by rw [State.line, lines]; exact h.lines l
  services v := by rw [State.service, services]; exact h.services v
  reports := by rw [ci]; exact h.reports

/-- A selection whose standby hold stands, with other fields changed. -/
theorem WithinCapacity.updSel_keep {s : State} {v : ServiceIx} {f : Selection → Selection}
    (h : WithinCapacity s) (hs : (f (s.service v).sel).standby = (s.service v).sel.standby) :
    WithinCapacity (s.updSel v f) :=
  h.updSel (by rw [hs]; exact (h.services v).standby) (by rw [hs]; exact (h.services v).standbyWords)

/-- A scheduler whose queue stands, with other fields changed. -/
theorem WithinCapacity.updSched_keep {s : State} {v : ServiceIx} {f : Scheduler → Scheduler}
    (h : WithinCapacity s) (hq : (f (s.service v).sched).queue = (s.service v).sched.queue) :
    WithinCapacity (s.updSched v f) :=
  h.updSched (by rw [hq]; exact (h.services v).queue) (by rw [hq]; exact (h.services v).entries)

theorem WithinCapacity.updInput {s : State} {i : InputIx} {f : Input → Input} (h : WithinCapacity s) :
    WithinCapacity (s.updInput i f) := h.congr rfl rfl rfl

/-! ### The serving of a queue -/

theorem fits_leaveByRelease (v : ServiceIx) (e : Entry) {s : State} (h : WithinCapacity s) :
    WithinCapacity (leaveByRelease v e s) :=
  (fits_dropHead v e h).updSched_keep rfl

theorem om_departed (v u : ServiceIx) (t : Frame) (s : State) :
    ((departed v t s).service u).om = (s.service u).om := by
  show ((s.updSched v fun q => { q with lastLeft := some t }).service u).om = _
  rw [service_updSched]; split
  · next e => rw [e]
  · rfl

theorem om_leaveByRelease (v : ServiceIx) (e : Entry) (s : State) :
    ((leaveByRelease v e s).service v).om = (s.service v).om := by
  rw [leaveByRelease, service_updSched_same]
  show ((dropHead v e s).service v).om = _
  rw [dropHead, om_departed, service_updSched_same]

theorem fits_releaseHead {v : ServiceIx} {e : Entry} {s t : State} (r : releaseHead v e s = some t)
    (h : WithinCapacity s) : WithinCapacity t := by
  have left := fits_leaveByRelease v e h
  have appended (us : List OutUnit) (room : unitsCost us ≤ freeRoom (s.service v).om) :
      WithinCapacity (appendUnits v us (leaveByRelease v e s)) :=
    fits_appendUnits v us left (by rw [om_leaveByRelease]; exact room)
  simp only [releaseHead] at r
  repeat' split at r
  all_goals simp only [Option.some.injEq, reduceCtorEq] at r
  all_goals subst r
  · exact left.updSel_keep rfl
  · next room =>
    have a := appended _ room
    exact a.updCb_keep rfl (a.services v).blocks
  · next room =>
    have a := appended [clearUnit] room
    exact a.updCb_keep rfl (a.services v).blocks

/-- What the release of a head, the reactions and a stall keep, the serving of a queue keeps. -/
theorem serveUpTo_keeps {P : State → Prop} (v : ServiceIx)
    (release : ∀ {s t e}, releaseHead v e s = some t → P s → P t) (settled : ∀ {s}, P s → P (settle s))
    (stall : ∀ {s}, P s → P (s.updSched v fun q => { q with stalls := bump q.stalls })) (n : Nat)
    {s : State} (h : P s) : P (serveUpTo v n s) := by
  induction n generalizing s with
  | zero => exact h
  | succ n ih =>
    rw [serveUpTo]
    split
    · exact h
    · split
      · next r => exact ih (settled (release r h))
      · exact stall h

theorem fits_serveQueue (v : ServiceIx) {s : State} (h : WithinCapacity s) :
    WithinCapacity (serveQueue v s) := by
  rw [serveQueue]
  split
  · exact serveUpTo_keeps v fits_releaseHead fits_settle (fun h => h.updSched_keep rfl) _ (fits_settle h)
  · exact h

/-! ### Source selection -/

theorem fits_mergeStandby (v : ServiceIx) {s : State} (h : WithinCapacity s) :
    WithinCapacity (mergeStandby v s).1 := by
  have merged (ws : List WordRecord) (p : State × Nat) (words : ∀ w ∈ ws, WordFits w)
      (hp : WithinCapacity p.1) : WithinCapacity (ws.foldl (mergeOne v) p).1 := by
    induction ws generalizing p with
    | nil => exact hp
    | cons w ws ih =>
      refine ih _ (fun x hx => words x (List.mem_cons_of_mem _ hx)) ?_
      have offered := fits_offer v (.word w) none hp (words w List.mem_cons_self)
      simp only [mergeOne]
      split
      · exact offered
      · refine WithinCapacity.updSel_keep (f := fun x => { x with mergeLost := bump x.mergeLost }) offered ?_
        rfl
  exact merged _ _ (h.services v).standbyWords
    (h.updSel (f := fun x => { x with standby := [] }) (Nat.zero_le _) nofun)

theorem fits_failover (v : ServiceIx) (a b : LineIx) {s : State} (h : WithinCapacity s) :
    WithinCapacity (failover v a b s) := by
  refine fits_raise _ (WithinCapacity.updSel_keep (fits_mergeStandby v ?_) rfl)
  exact (fits_flushWord a h).updSel_keep rfl

theorem fits_checkSilence (v : ServiceIx) {s : State} (h : WithinCapacity s) :
    WithinCapacity (checkSilence v s) := by
  simp only [checkSilence]
  repeat' split
  · exact h
  · exact h.updSel_keep rfl
  · exact fits_failover v _ _ h
  · exact h
  · exact fits_raise _ (h.updSel_keep rfl)
  · exact h

theorem fits_ageOut (v : ServiceIx) {s : State} (h : WithinCapacity s) : WithinCapacity (ageOut v s) := by
  simp only [ageOut]
  split
  · exact h.updSel ((List.length_filter_le _ _).trans (h.services v).standby)
      fun w hw => (h.services v).standbyWords w (List.mem_of_mem_filter hw)
  · exact h

theorem fits_endHold (v : ServiceIx) {s : State} (h : WithinCapacity s) :
    WithinCapacity (endHold v s) := by
  rw [endHold]
  split
  · exact h.updSel_keep rfl
  · exact h

theorem fits_switchLine (v : ServiceIx) (c : Choice) {s : State} (h : WithinCapacity s) :
    WithinCapacity (switchLine v c s) := by
  have flushed : WithinCapacity (match attachedLine (s.service v) with
      | some old => flushWord old s
      | none => s) := by
    split
    · exact fits_flushWord _ h
    · exact h
  simp only [switchLine]
  split
  · exact fits_mergeStandby v (flushed.updSel_keep rfl)
  · exact (flushed.updSel_keep rfl).updSel (by simp) (by simp)

/-! ### Inputs and pieces of work -/

theorem fits_deliver (r : GpiRecord) (a : Bool) (f : Frame) {s : State} (h : WithinCapacity s) :
    WithinCapacity (deliver r a f s) := by
  simp only [deliver]
  repeat' split
  all_goals first
    | exact h
    | exact fits_offerOnset _ _ h
    | exact fits_trigger _ _ h
    | exact fits_setMode _ _ h
    | exact fits_beginMute _ h
    | exact fits_endMute _ h
    | exact fits_clearService _ h

theorem fits_acceptEdge (i : InputIx) {s : State} (h : WithinCapacity s) :
    WithinCapacity (acceptEdge i s) := by
  simp only [acceptEdge]
  split
  · exact fits_deliver _ _ _ h.updInput
  · exact h

theorem fits_checkFlush (l : LineIx) {s : State} (h : WithinCapacity s) :
    WithinCapacity (checkFlush l s) := by
  rw [checkFlush]
  split
  · exact fits_flushWord l h
  · exact h

theorem fits_frameRetry (l : LineIx) {s : State} (h : WithinCapacity s) :
    WithinCapacity (frameRetry l s) := by
  rw [frameRetry]
  split
  · exact fits_retryHeld l h
  · exact h

theorem fits_perform (w : Work) {s : State} (h : WithinCapacity s) : WithinCapacity (perform w s) := by
  cases w with
  | edge i => exact fits_acceptEdge i h
  | onsetExpiry v => exact fits_expireOnsets v h
  | flush l => exact fits_checkFlush l h
  | ageOut v => exact fits_ageOut v h
  | holdEnd v => exact fits_endHold v h
  | silence v => exact fits_checkSilence v h
  | timed v => exact fits_checkTimed v h
  | retry l => exact fits_frameRetry l h
  | serve v => exact fits_serveQueue v h
  | blockHold v => exact fits_checkHold v h
  | append v => exact fits_attemptAppend v h
  | stale v => exact fits_checkStale v h
  | dmax v => exact fits_checkDmax v h
  | drain v => exact fits_drainCheck v h

theorem keepsWork_capacity : KeepsWork WithinCapacity where
  agenda _ h := h.congr rfl rfl rfl
  carryOut e h := fits_carryOutClosing e h
  form e h := fits_formBlock e h
  take e h := fits_takeHead e h
  retry l h := fits_retryHeld l h
  hand e h := fits_handItem e h
  perform w h := fits_perform w h

/-! ### Received characters -/

theorem lineFits_appendIntake (i : IntakeItem) {x : Line} (h : LineFits x)
    (room : x.fifo.length < Config.intakeCapacity) : LineFits (appendIntake i x) := by
  have appended : LineFits { x with fifo := x.fifo ++ [i] } :=
    { h with intake := by simpa using room }
  simp only [appendIntake]
  split
  · exact lineFits_setXoff true appended
  · exact appended

theorem fits_overrun (l : LineIx) {s : State} (h : WithinCapacity s) : WithinCapacity (overrun l s) := by
  have counted : WithinCapacity
      (s.updLine l fun x => { x with overruns := bump x.overruns, overrunOpen := true }) :=
    h.updLine { h.lines l with }
  simp only [overrun]
  split
  · exact counted
  · exact fits_raise _ counted

theorem fits_handOn (l : LineIx) (i : IntakeItem) {s : State} (h : WithinCapacity s) :
    WithinCapacity (handOn l i s) := by
  rw [handOn]
  repeat' split
  · exact fits_decodeItem l i h
  · next room => exact h.updLine (lineFits_appendIntake i (h.lines l) room)
  · exact fits_overrun l h

theorem fits_receive (l : LineIx) (r : LineRecord) (data : Byte) (pbit stop : Bool) {s : State}
    (h : WithinCapacity s) : WithinCapacity (receive l r data pbit stop s) := by
  have counted (f p : Bool) : WithinCapacity (s.updLine l (countCharacter s.pfn f p)) :=
    h.updLine { h.lines l with }
  simp only [receive]
  repeat' split
  · exact fits_handOn l _ (counted _ _)
  · exact counted _ _
  · exact fits_handOn l _ (counted _ _)

/-- A line whose intake FIFO and assembler stand fits as before. -/
theorem lineFits_congr {x y : Line} (h : LineFits x) (fifo : y.fifo = x.fifo) (asm : y.asm = x.asm) :
    LineFits y := ⟨by rw [fifo]; exact h.intake, by rw [asm]; exact h.glyphs, by rw [asm]; exact h.held⟩

theorem transmit_fifo_asm (x : Line) : (transmit x).fifo = x.fifo ∧ (transmit x).asm = x.asm := by
  rw [transmit]; split <;> exact ⟨rfl, rfl⟩

theorem keepsWire_capacity : KeepsWire WithinCapacity where
  startBit {s} l b h := by
    refine h.updLine (lineFits_congr (h.lines l) ?_ ?_) <;> (rw [startBit]; split <;> rfl)
  wireHigh {s} l h := by
    refine h.updLine (lineFits_congr (h.lines l) ?_ ?_) <;> (rw [wireHigh]; split <;> rfl)
  passOver {s} l h := by
    refine h.updLine (lineFits_congr (h.lines l) ?_ ?_) <;> (rw [passOver]; split <;> rfl)
  sent {s} l h := by
    refine h.updLine (lineFits_congr (h.lines l) ?_ ?_) <;>
      (rw [sent]; split <;> simp [transmit_fifo_asm])
  receive l r d b b' h := fits_receive l r d b b' h

/-! ### The assembly of a packet -/

theorem fits_reportShows (v : ServiceIx) (n : Frame) (rest us : List OutUnit) {s : State}
    (h : WithinCapacity s) : WithinCapacity (reportShows v n rest us s) := by
  induction us generalizing s with
  | nil => exact h
  | cons u us ih =>
    rw [reportShows]
    split
    · exact ih (fits_showLeft v _ _ _ h)
    · exact ih h

theorem fits_assembleOne (r : Bool) (n : Frame) (room : Nat) (a : Assembly) (v : ServiceIx)
    (h : WithinCapacity a.state) : WithinCapacity (assembleOne r n room a v).state :=
  fits_reportShows v n _ _ (h.updOm ((cost_rest_takeUnits ..).trans (h.services v).output))

theorem fits_round1 (n : Frame) {s : State} (h : WithinCapacity s) : WithinCapacity (round1 n s).state :=
  foldl_keeps (P := fun a : Assembly => WithinCapacity a.state)
    (fun a v => fits_assembleOne _ n _ a v) _ h

theorem fits_round2 (n : Frame) {a : Assembly} (h : WithinCapacity a.state) :
    WithinCapacity (round2 n a).state :=
  foldl_keeps (P := fun a : Assembly => WithinCapacity a.state)
    (fun a v => fits_assembleOne _ n _ a v) _ h

theorem fits_countStarved (n : Frame) (before : State) (placed : List (ServiceIx × OutUnit)) {s : State}
    (h : WithinCapacity s) : WithinCapacity (countStarved n before placed s) := by
  refine forServices_keeps (fun v t h => ?_) h
  split
  · exact h.updOm (h.services v).output
  · exact h

theorem fits_assemble {s : State} (h : WithinCapacity s) : WithinCapacity (assemble s).state := by
  have mapped : WithinCapacity (applyMap s) := by rw [applyMap_eq]; exact h.congr rfl rfl rfl
  exact fits_countStarved _ _ _ (fits_round2 _ (fits_round1 _ mapped))

theorem keepsCarriage_capacity : KeepsCarriage WithinCapacity where
  out _ h := h.congr rfl rfl rfl
  assemble h := fits_assemble h
  reportGone h := { h with
    reports := by
      have := h.reports
      simp only [ReportsFit, List.length_tail] at this ⊢
      omega }

/-! ### Frame starts -/

theorem entryFits_heldEntry (pfn : Frame) {e : Entry} (h : EntryFits e) : EntryFits (heldEntry pfn e) := by
  obtain ⟨body, t⟩ := e
  cases body <;> exact h

theorem unitsCost_map {f : OutUnit → OutUnit} (h : ∀ u, (f u).kind = u.kind) (us : List OutUnit) :
    unitsCost (us.map f) = unitsCost us := by
  induction us with
  | nil => rfl
  | cons u us ih => rw [List.map_cons, unitsCost_cons, unitsCost_cons, ih, unitCost, unitCost, h]

theorem lineFits_heldLine (pfn : Frame) {x : Line} (h : LineFits x) : LineFits (heldLine pfn x) where
  intake := h.intake
  glyphs := h.glyphs
  held := by
    have held := h.held
    show HeldFits (x.asm.held.map (heldHeld pfn))
    generalize x.asm.held = k at held ⊢
    obtain _ | ⟨item, on⟩ := k
    · trivial
    · cases item
      · exact held
      · trivial

theorem serviceFits_heldService (pfn : Frame) {x : Service} (h : ServiceFits x) :
    ServiceFits (heldService pfn x) where
  standby := by simpa [heldService] using h.standby
  standbyWords := by
    intro w hw
    obtain ⟨w', hw', rfl⟩ := List.mem_map.mp hw
    exact h.standbyWords w' hw'
  onsets := by simpa [heldService] using h.onsets
  queue := by simpa [heldService] using h.queue
  entries := by
    intro e he
    obtain ⟨e', he', rfl⟩ := List.mem_map.mp he
    exact entryFits_heldEntry pfn (h.entries e' he')
  placed := by
    intro p hp
    obtain ⟨p', hp', rfl⟩ := List.mem_map.mp hp
    exact h.placed p' hp'
  carry := by
    intro c hc
    obtain ⟨c', hc', rfl⟩ := Option.map_eq_some_iff.mp hc
    exact h.carry c' hc'
  blocks := by simpa [heldService] using h.blocks
  output := by
    show unitsCost (x.om.fifo.map _) ≤ _
    refine le_of_eq_of_le (unitsCost_map ?_ _) h.output
    exact fun _ => rfl

theorem WithinCapacity.mapServices {s : State} {f : Service → Service} (h : WithinCapacity s)
    (hf : ∀ x, ServiceFits x → ServiceFits (f x)) : WithinCapacity { s with services := s.services.map f } where
  lines := h.lines
  services v := by
    show ServiceFits ((s.services.map f).get v)
    rw [Quad.get_map]; exact hf _ (h.services v)
  reports := h.reports

theorem fits_holdPast {s : State} (h : WithinCapacity s) : WithinCapacity (holdPast s) := by
  have held := (fits_mapLines h fun _ => lineFits_heldLine s.pfn).mapServices
    fun _ => serviceFits_heldService s.pfn
  refine ⟨held.lines, held.services, ?_⟩
  have reports := h.reports
  simpa [ReportsFit, holdPast, heldControl] using reports

theorem fits_beginFrame (levels : BitVec 8) {s : State} (h : WithinCapacity s) :
    WithinCapacity (beginFrame levels s) := by
  refine beginFrame_keeps levels (fun h => ?_) fits_holdPast (fun _ _ h => h.updInput)
    (fun h => h.congr rfl rfl rfl) h
  exact (WithinCapacity.congr (t := { s with pfn := s.pfn + 1 }) h rfl rfl rfl).mapServices
    fun _ h => { h with }

theorem keepsFrames_capacity : KeepsFrames WithinCapacity where
  begin_ levels h := fits_beginFrame levels h
  port _ _ _ _ h := h.congr rfl rfl rfl
  raise n h := fits_raise n h

/-! ### Requests -/

theorem reports_countRequest (c : ReplyCode) (k : Control) : (countRequest c k).reports = k.reports := by
  rw [countRequest]; split <;> rfl

theorem lineFits_restartLine (v : ServiceIx) {x : Line} (h : LineFits x) : LineFits (restartLine v x) := by
  have glyphs : (restartLine v x).asm.glyphs = x.asm.glyphs := by
    simp only [restartLine]; repeat' split
    all_goals rfl
  have held : (restartLine v x).asm.held = none ∨ (restartLine v x).asm.held = x.asm.held := by
    simp only [restartLine]; repeat' split
    all_goals first
      | exact .inl rfl
      | exact .inr rfl
  refine ⟨h.intake, by rw [glyphs]; exact h.glyphs, ?_⟩
  obtain none | same := held
  · rw [none]; trivial
  · rw [same]; exact h.held

theorem serviceFits_restartedService {x : Service} : ServiceFits (restartedService x) where
  standby := Nat.zero_le _
  standbyWords := by simp [restartedService]
  onsets := Nat.zero_le _
  queue := Nat.zero_le _
  entries := by simp [restartedService]
  placed := by simp [restartedService, compositionReset, emptyOpenBlock]
  carry := by simp [restartedService, compositionReset, emptyOpenBlock]
  blocks := Nat.zero_le _
  output := by
    show bytesHeld (onlyClear x.om) ≤ _
    rw [bytesHeld_onlyClear]; decide

theorem fits_restartService (v : ServiceIx) {s : State} (h : WithinCapacity s) :
    WithinCapacity (restartService v s) :=
  fits_mapLines (h.updService serviceFits_restartedService) fun _ => lineFits_restartLine v

theorem fits_softReset {s : State} (h : WithinCapacity s) : WithinCapacity (softReset s) := by
  have lines := fits_mapLines (f := softLine s.pfn) h fun x _ => lineFits_setXoff false
    ⟨Nat.zero_le _, Nat.zero_lt_succ _, trivial⟩
  have services := lines.mapServices (f := fun x => softCounts (restartedService x)) fun x _ =>
    { serviceFits_restartedService (x := x) with }
  exact ⟨services.lines, services.services, Nat.zero_le _⟩

theorem lineFits_loadRecord (pfn : Frame) (r : LineRecord) {x : Line} (h : LineFits x) :
    LineFits (loadRecord pfn r x) := by
  simp only [loadRecord]
  split
  · exact lineFits_setXoff false { h with }
  · exact { h with }

theorem keepsRequests_capacity : KeepsRequests WithinCapacity where
  out _ h := h.congr rfl rfl rfl
  answer r c h := h.updCi (reports_joinReply r (by
    have reports := h.reports
    rwa [ReportsFit, reports_countRequest]))
  softReset r h := (fits_softReset h).updCi (reports_joinReply r (fits_softReset h).reports)
  setDevice _ h := h.congr rfl rfl rfl
  loadLine _ h := h.updLine (lineFits_loadRecord _ _ (h.lines _))
  loadService _ _ _ h := h.updService { h.services _ with }
  close v h := fits_closeOpen v _ h
  restart v h := fits_restartService v h
  slotMap _ h := h.congr rfl rfl rfl
  story _ _ h := h.congr rfl rfl rfl
  cue _ _ _ h := h.congr rfl rfl rfl
  gpi _ h := h.updInput
  arm _ _ _ h := h.updRunner
  issue _ e h := fits_issueCue e h
  refused v h := fits_cueRefused v h
  disarm _ h := h.updRunner
  drain _ h := fits_startDrain _ _ h
  mode v m h := fits_setMode v m h
  switch v c h := fits_switchLine v c h
  clear v h := fits_clearService v h
  noticed h := h.updCi h.reports
  figuresRead _ h := h.updSched_keep rfl

/-! ### Resets -/

theorem fits_reset : WithinCapacity State.reset where
  lines l := by
    show LineFits ((Quad.fill resetLine).get l)
    rw [Quad.get_fill]; exact ⟨Nat.zero_le _, by decide, trivial⟩
  services v := by
    show ServiceFits ((Quad.fill resetService).get v)
    rw [Quad.get_fill]
    exact ⟨Nat.zero_le _, nofun, Nat.zero_le _, Nat.zero_le _, nofun, nofun, nofun,
      Nat.zero_le _, Nat.zero_le _⟩
  reports := Nat.zero_le _

/-- A reset gives the reset state, or, at the fall of the pin, cuts short what is being received or sent. -/
theorem exec_reset_cases {c : Instr} {s t : State} (reset : c.isReset = true) (e : exec c s = .next t) :
    (∃ low, t = { State.reset with resetLow := low, pending := s.pending }) ∨
      t = { s with resetLow := true, due := [], out := [], lines := s.lines.map cutShort } := by
  cases c
  case powerOnReset => obtain rfl := Host.Outcome.next.inj e; exact .inl ⟨_, rfl⟩
  case resetPinRelease => obtain rfl := Host.Outcome.next.inj e; exact .inl ⟨false, rfl⟩
  case resetPinAssert => obtain rfl := Host.Outcome.next.inj e; exact .inr rfl
  all_goals exact Bool.noConfusion reset

theorem resets_capacity {c : Instr} {s t : State} (reset : c.isReset = true) (h : WithinCapacity s)
    (e : exec c s = .next t) : WithinCapacity t := by
  obtain ⟨low, rfl⟩ | rfl := exec_reset_cases reset e
  · exact fits_reset.congr rfl rfl rfl
  · exact (fits_mapLines h fun x hx => lineFits_congr (y := cutShort x) hx rfl rfl).congr rfl rfl rfl

/-- Settles O4: every part that a step is made of keeps the capacities. -/
theorem capacitiesKept : Obligations.CapacitiesKept := fun _ _ h e =>
  step_keeps (fun _ h => h.congr rfl rfl rfl) keepsWork_capacity keepsWire_capacity keepsCarriage_capacity
    keepsRequests_capacity keepsFrames_capacity resets_capacity h e

end Sys2Proof.Machine
end

section
/-! Laws of the lines: what a step can do to a line, said once for every law that rests on the record, the
transmitter, the assembler and the estimate of each line by itself. -/

namespace Sys2Proof.Machine

/-! ### Operations that leave the lines alone -/

@[simp] theorem lines_raise (n : Notice) (s : State) : (raise n s).lines = s.lines := rfl

@[simp] theorem lines_offer (v : ServiceIx) (b : EntryBody) (f : Option Frame) (s : State) :
    (offer v b f s).2.lines = s.lines := by rw [offer_frame]

@[simp] theorem lines_attemptAppend (v : ServiceIx) (s : State) : (attemptAppend v s).lines = s.lines :=
  (builds_attemptAppend v s).lines

@[simp] theorem lines_closeOpen (v : ServiceIx) (c : CloseCause) (s : State) :
    (closeOpen v c s).lines = s.lines := (builds_closeOpen v c s).lines

@[simp] theorem lines_clearService (v : ServiceIx) (s : State) : (clearService v s).lines = s.lines :=
  (builds_clearService v s).lines

@[simp] theorem lines_beginMute (v : ServiceIx) (s : State) : (beginMute v s).lines = s.lines := by
  rw [beginMute]; split <;> rfl

@[simp] theorem lines_endMute (v : ServiceIx) (s : State) : (endMute v s).lines = s.lines := rfl

@[simp] theorem lines_setMode (v : ServiceIx) (m : Mode) (s : State) : (setMode v m s).lines = s.lines := by
  simp only [setMode]; repeat' split
  all_goals rfl

theorem lines_issueCue {v : ServiceIx} {a : Frame} {s t : State} (h : issueCue v a s = some t) :
    t.lines = s.lines := by rw [issueCue_frame h]

@[simp] theorem lines_cueRefused (v : ServiceIx) (s : State) : (cueRefused v s).lines = s.lines := by
  rw [cueRefused]; split <;> rfl

@[simp] theorem lines_trigger (v : ServiceIx) (a : Frame) (s : State) : (trigger v a s).lines = s.lines := by
  simp only [trigger]; repeat' split
  · next h => exact lines_issueCue h
  all_goals simp

@[simp] theorem lines_checkTimed (v : ServiceIx) (s : State) : (checkTimed v s).lines = s.lines := by
  simp only [checkTimed]; repeat' split
  · rfl
  · next h => exact lines_issueCue h
  all_goals simp

@[simp] theorem lines_drainCheck (v : ServiceIx) (s : State) : (drainCheck v s).lines = s.lines := by
  simp only [drainCheck]; repeat' split
  all_goals rfl

@[simp] theorem lines_offerOnset (v : ServiceIx) (o : Frame) (s : State) :
    (offerOnset v o s).lines = s.lines := by rw [offerOnset]; split <;> rfl

@[simp] theorem lines_deliver (r : GpiRecord) (a : Bool) (f : Frame) (s : State) :
    (deliver r a f s).lines = s.lines := by
  simp only [deliver]; repeat' split
  all_goals simp

@[simp] theorem lines_acceptEdge (i : InputIx) (s : State) : (acceptEdge i s).lines = s.lines := by
  simp only [acceptEdge]; split <;> simp

@[simp] theorem lines_mergeStandby (v : ServiceIx) (s : State) : (mergeStandby v s).1.lines = s.lines := by
  have merged (ws : List WordRecord) (p : State × Nat) :
      (ws.foldl (mergeOne v) p).1.lines = p.1.lines := by
    refine foldl_keeps (P := fun q : State × Nat => q.1.lines = p.1.lines) (fun q w h => ?_) ws rfl
    simp only [mergeOne]
    split <;> simp [h]
  simp only [mergeStandby]
  rw [merged, lines_updSel]

@[simp] theorem lines_ageOut (v : ServiceIx) (s : State) : (ageOut v s).lines = s.lines := by
  simp only [ageOut]; split <;> rfl

@[simp] theorem lines_endHold (v : ServiceIx) (s : State) : (endHold v s).lines = s.lines := by
  rw [endHold]; split <;> rfl

@[simp] theorem lines_endHoldByGlyph (l : LineIx) (s : State) : (endHoldByGlyph l s).lines = s.lines := by
  rw [endHoldByGlyph]; split <;> rfl

@[simp] theorem lines_takeHold (l : LineIx) (s : State) : (takeHold l s).lines = s.lines := by
  rw [takeHold]; repeat' split
  all_goals rfl

@[simp] theorem lines_takeNext (l : LineIx) (s : State) : (takeNext l s).lines = s.lines := by
  rw [takeNext]; split <;> simp

theorem lines_releaseHead {v : ServiceIx} {e : Entry} {s t : State} (h : releaseHead v e s = some t) :
    t.lines = (dropHead v e s).lines := by
  simp only [releaseHead] at h
  repeat' split at h
  all_goals simp only [Option.some.injEq, reduceCtorEq] at h
  all_goals subst h; rfl

theorem line_eq_of_lines {s t : State} (h : t.lines = s.lines) (l : LineIx) : t.line l = s.line l := by
  rw [State.line, h]; rfl

/-! ### What pairing and routing do to the lines -/

/-- Whether pairing finds an onset or not, the assemblers stay. -/
theorem asm_pairOnset (l m : LineIx) (v : ServiceIx) (a : Frame) (s : State) :
    ((pairOnset l v a s).line m).asm = (s.line m).asm := by
  have aged (f : Latency → Latency) (u : State) (h : u.lines = s.lines) :
      ((u.updLat l f).line m).asm = (s.line m).asm := by
    rw [line_updLat]
    split
    · next e => rw [e, line_eq_of_lines h]
    · rw [line_eq_of_lines h]
  simp only [pairOnset]
  repeat' split
  all_goals exact aged _ _ rfl

theorem asm_pairIfMarked (l m : LineIx) (v : ServiceIx) (a : Frame) (s : State) :
    ((pairIfMarked l v a s).line m).asm = (s.line m).asm := by
  rw [pairIfMarked]
  split
  · exact asm_pairOnset ..
  · rfl

/-- What the routing of an item does to the assembler of its line: nothing, or the item is counted as
unrouted, or it is held. -/
inductive Routed (a : Assembler) : Assembler → Prop where
  | left : Routed a a
  | unrouted : Routed a { a with unrouted := bump a.unrouted }
  | held (h : Held) : Routed a { a with held := some h }

theorem line_of_lines_updAsm {s t : State} {l m : LineIx} {f : Assembler → Assembler}
    (h : t.lines = s.lines) : (t.updAsm l f).line m = (s.updAsm l f).line m := by
  rw [line_updAsm, line_updAsm, line_eq_of_lines h, line_eq_of_lines h]

theorem updAsm_eq_self {s : State} {l : LineIx} {f : Assembler → Assembler}
    (h : f (s.line l).asm = (s.line l).asm) : s.updAsm l f = s :=
  updLine_eq_self (by rw [h])

theorem line_routeMarker (l : LineIx) (f : Frame) (s : State) :
    ∃ a, Routed (s.line l).asm a ∧ ∀ m, (routeMarker l f s).line m = (s.updAsm l fun _ => a).line m := by
  have left (t : State) (h : t.lines = s.lines) (m : LineIx) :
      t.line m = (s.updAsm l fun _ => (s.line l).asm).line m := by
    rw [updAsm_eq_self rfl]; exact line_eq_of_lines h m
  simp only [routeMarker]
  repeat' split
  · exact ⟨_, .left, left _ (lines_offer ..)⟩
  · exact ⟨_, .held _, fun m => line_of_lines_updAsm (lines_offer ..)⟩
  · exact ⟨_, .unrouted, fun m => rfl⟩

/-! ### Laws of a line -/

/-- A law that rests, line by line, on the record, the transmitter, the assembler and the estimate, and that
every change which a step makes of a line keeps. The assembler may change as its form (section 3.1) allows. -/
structure LineLaw (Q : Line → Prop) : Prop where
  congr : ∀ {x y : Line}, Q x → y.record = x.record → y.xoff = x.xoff → y.lastSent = x.lastSent →
    y.sending = x.sending → y.asm = x.asm → y.lat.lest = x.lat.lest → Q y
  asm : ∀ {x : Line} {a : Assembler}, (AssemblerForm x.asm → AssemblerForm a) → Q x → Q { x with asm := a }
  sample : ∀ {x : Line} {o a : Frame}, strictlyBefore o (moved a (-(x.record.lmax : Int))) = false →
    atOrBefore o (moved a (-(x.record.lmin : Int))) = true → Q x →
    Q { x with lat := takeSample x.record.adaptive (frameDiff o a).toNat x.lat }
  release : ∀ {x : Line}, Q x → Q (setXoff false x)
  mark : ∀ {x : Line}, x.record.flow = true → Q x → Q (setXoff true x)
  sent : ∀ {x : Line}, Q x → Q (sent x)
  held : ∀ {x : Line} (pfn : Frame), Q x → Q (heldLine pfn x)
  load : ∀ {x : Line} {b l r c} (pfn : Frame), parseLine b = .ok (l, r, c) → Q x → Q (loadRecord pfn r x)
  soft : ∀ {x : Line} (pfn : Frame), Q x → Q (softLine pfn x)

/-- Every line meets the law. -/
def AllLines (Q : Line → Prop) (s : State) : Prop := ∀ l, Q (s.line l)

namespace AllLines

variable {Q : Line → Prop} {s t : State}

theorem of_lines (h : AllLines Q s) (e : t.lines = s.lines) : AllLines Q t := fun l => by
  rw [line_eq_of_lines e]; exact h l

theorem of_line (h : AllLines Q s) (e : ∀ l, t.line l = s.line l) : AllLines Q t := fun l => by
  rw [e]; exact h l

theorem updLine {l : LineIx} {f : Line → Line} (h : AllLines Q s) (hf : Q (f (s.line l))) :
    AllLines Q (s.updLine l f) := fun m => by
  rw [line_updLine]; split
  exacts [hf, h m]

theorem map {f : Line → Line} (h : AllLines Q s) (hf : ∀ x, Q x → Q (f x)) :
    AllLines Q { s with lines := s.lines.map f } := fun m => by
  show Q ((s.lines.map f).get m)
  rw [Quad.get_map]; exact hf _ (h m)

theorem updAsm {l : LineIx} {f : Assembler → Assembler} (h : AllLines Q s) (law : LineLaw Q)
    (hf : AssemblerForm (s.line l).asm → AssemblerForm (f (s.line l).asm)) : AllLines Q (s.updAsm l f) :=
  h.updLine (law.asm hf (h l))

theorem updLat {l : LineIx} {f : Latency → Latency} (h : AllLines Q s) (law : LineLaw Q)
    (hf : (f (s.line l).lat).lest = (s.line l).lat.lest) : AllLines Q (s.updLat l f) :=
  h.updLine (law.congr (h l) rfl rfl rfl rfl rfl hf)

end AllLines

/-! ### The form of an assembler under each change -/

theorem AssemblerForm.afterCompletion {a : Assembler} (h : AssemblerForm a) :
    AssemblerForm (afterCompletion a) where
  first := by simp [Machine.afterCompletion]
  retracted := by simp [Machine.afterCompletion]
  carried := by simp [Machine.afterCompletion]
  stalled := by simp [Machine.afterCompletion]
  clearPending := h.clearPending

theorem AssemblerForm.appendGlyph {a : Assembler} (h : AssemblerForm a) (free : a.held = none)
    (pfn : Frame) (g : KeyedGlyph) : AssemblerForm (appendGlyph pfn g a) := by
  rw [Machine.appendGlyph]
  split
  · exact { first := by simp, retracted := by simp, carried := by simp, stalled := by simp [free]
            clearPending := h.clearPending }
  · next word =>
    have word : a.glyphs ≠ [] := by simpa using word
    exact { first := by simpa [word] using h.first, retracted := by simp, carried := by simp
            stalled := by simp [free], clearPending := h.clearPending }

theorem AssemblerForm.emptied {a : Assembler} (pending : a.clearPending.isSome → a.held.isSome) :
    AssemblerForm (emptied a) where
  first := by simp [Machine.emptied]
  retracted := by simp [Machine.emptied]
  carried := by simp [Machine.emptied]
  stalled := by simp [Machine.emptied]
  clearPending := pending

/-- A word under assembly, an open one, from which the last glyph goes. -/
theorem AssemblerForm.dropGlyph {a : Assembler} (first : a.first.isSome) (free : a.held = none)
    (pending : a.clearPending.isSome → a.held.isSome) : AssemblerForm (dropGlyph a) := by
  simp only [Machine.dropGlyph]
  split
  · exact .emptied pending
  · next word =>
    have word : a.glyphs.dropLast ≠ [] := by simpa using word
    exact { first := by simp [first, word], retracted := fun _ => word, carried := fun _ => word
            stalled := by simp [free], clearPending := pending }

theorem AssemblerForm.dropGlyph_of_word {a : Assembler} (h : AssemblerForm a) (word : a.glyphs ≠ []) :
    AssemblerForm (Machine.dropGlyph a) := by
  refine .dropGlyph (h.first.mpr word) ?_ h.clearPending
  cases held : a.held
  · rfl
  · exact absurd (h.stalled (by simp [held])) word

theorem AssemblerForm.reopen {a : Assembler} (h : AssemblerForm a) (free : a.held = none) (v : ServiceIx)
    (w : WordRecord) (t f : Frame) : AssemblerForm (reopen v w t f a) :=
  .dropGlyph (a := { a with
    glyphs := w.glyphs, first := some f
    retracted := some { service := v, arrival := w.arrival, floor := t }
    carriedSpeaker := w.speaker, carriedBreak := w.breakBefore, carriedCont := w.cont
    retractions := bump a.retractions }) rfl free h.clearPending

/-- A stalled assembler whose held item has left, with what its pending marker then does. -/
theorem AssemblerForm.endStall {a b : Assembler} (h : AssemblerForm a) (stalled : a.held.isSome)
    (routed : Routed { a with held := none, clearPending := none } b) : AssemblerForm b := by
  have word := h.stalled stalled
  have freed : AssemblerForm { a with held := none, clearPending := none } :=
    { h with stalled := by simp, clearPending := by simp }
  cases routed with
  | left => exact freed
  | unrouted => exact { freed with }
  | held k => exact { freed with stalled := fun _ => word, clearPending := by simp }

/-- R86: an assembler whose held item waits on the queue of v drops it, and its pending marker. -/
def freedFrom (v : ServiceIx) (a : Assembler) : Assembler :=
  if a.held.map Held.on = some v then { a with held := none, clearPending := none, retryOwed := false }
  else a

/-- R49: a retraction from v is forgotten. -/
def forgetting (v : ServiceIx) (a : Assembler) : Assembler :=
  if a.retracted.map Retracted.service = some v then { a with retracted := none } else a

theorem restartLine_eq (v : ServiceIx) (x : Line) :
    restartLine v x = { x with
      asm := forgetting v (freedFrom v x.asm)
      lat := if x.asm.held.map Held.on = some v then { x.lat with firstWord := false } else x.lat } := by
  obtain ⟨record, receiver, fifo, xoff, lastSent, sending, overrunOpen, commandPending, stamp, received,
    parityErrors, framingErrors, overruns, discards, asm, lat⟩ := x
  obtain ⟨glyphs, first, retracted, _, _, _, _, _, _, held, _, _, _, _, _, _⟩ := asm
  simp only [restartLine, forgetting, freedFrom]
  cases held with
  | none => cases retracted <;> simp
  | some h => by_cases waits : h.on = v <;> cases retracted <;> simp [waits]

theorem AssemblerForm.freedFrom {a : Assembler} (h : AssemblerForm a) (v : ServiceIx) :
    AssemblerForm (freedFrom v a) := by
  rw [Machine.freedFrom]
  split
  · exact { h with stalled := by simp, clearPending := by simp }
  · exact h

theorem AssemblerForm.forgetting {a : Assembler} (h : AssemblerForm a) (v : ServiceIx) :
    AssemblerForm (forgetting v a) := by
  rw [Machine.forgetting]
  split
  · exact { h with retracted := by simp }
  · exact h

theorem AssemblerForm.restartLine {x : Line} (h : AssemblerForm x.asm) (v : ServiceIx) :
    AssemblerForm (restartLine v x).asm := by
  rw [restartLine_eq]; exact (h.freedFrom v).forgetting v

theorem AssemblerForm.heldLine {x : Line} (h : AssemblerForm x.asm) (pfn : Frame) :
    AssemblerForm (heldLine pfn x).asm where
  first := by simpa [Machine.heldLine] using h.first
  retracted := by simpa [Machine.heldLine] using h.retracted
  carried := h.carried
  stalled := by simpa [Machine.heldLine] using h.stalled
  clearPending := by simpa [Machine.heldLine] using h.clearPending

theorem assemblerForm_reset : AssemblerForm resetAssembler where
  first := by simp [resetAssembler]
  retracted := by simp [resetAssembler]
  carried := by simp [resetAssembler]
  stalled := by simp [resetAssembler]
  clearPending := by simp [resetAssembler]

/-! ### Words and routing -/

section

variable {Q : Line → Prop} {s t : State}

theorem pairOnset_keeps (law : LineLaw Q) (l : LineIx) (v : ServiceIx) (a : Frame) (h : AllLines Q s) :
    AllLines Q (pairOnset l v a s) := by
  simp only [pairOnset]
  split
  · next o rest live =>
    have onset : o ∈ (s.service v).onsets.frames.filter fun o =>
        !strictlyBefore o (moved a (-((s.line l).record.lmax : Int))) := by rw [live]; exact List.mem_cons_self
    have recent := (List.mem_filter.mp onset).2
    split
    · next old =>
      exact (h.of_lines rfl).updLine
        (f := fun x => { x with lat := takeSample (s.line l).record.adaptive (frameDiff o a).toNat x.lat })
        (law.sample (by simpa using recent) old (h l))
    · exact AllLines.updLat (f := fun x => { x with unpaired := bump x.unpaired, firstWord := false })
        (h.of_lines rfl) law rfl
  · exact AllLines.updLat (f := fun x => { x with unpaired := bump x.unpaired, firstWord := false })
      (h.of_lines rfl) law rfl

theorem pairIfMarked_keeps (law : LineLaw Q) (l : LineIx) (v : ServiceIx) (a : Frame)
    (h : AllLines Q s) : AllLines Q (pairIfMarked l v a s) := by
  rw [pairIfMarked]
  split
  · exact pairOnset_keeps law l v a h
  · exact h

theorem departed_keeps (law : LineLaw Q) (v : ServiceIx) (f : Frame) (h : AllLines Q s) :
    AllLines Q (departed v f s) := by
  refine (h.of_lines (t := s.updSched v fun q => { q with lastLeft := some f }) rfl).map fun x hx => ?_
  rw [oweRetry_eq]
  split
  · exact law.asm (fun form => { form with }) hx
  · exact hx

theorem dropHead_keeps (law : LineLaw Q) (v : ServiceIx) (e : Entry) (h : AllLines Q s) :
    AllLines Q (dropHead v e s) := departed_keeps law v _ (h.of_lines rfl)

theorem dropTail_keeps (law : LineLaw Q) (v : ServiceIx) (e : Entry) (h : AllLines Q s) :
    AllLines Q (dropTail v e s) := departed_keeps law v _ (h.of_lines rfl)

theorem unrouted_keeps (law : LineLaw Q) (l : LineIx) (h : AllLines Q s) : AllLines Q (unrouted l s) :=
  h.updAsm law fun form => { form with }

theorem holdItem_keeps (law : LineLaw Q) (l : LineIx) (i : HeldItem) (v : ServiceIx) (h : AllLines Q s)
    (empty : AssemblerForm (s.line l).asm → (s.line l).asm.glyphs = []) : AllLines Q (holdItem l i v s) :=
  h.updAsm law fun form => { form with stalled := fun _ => empty form, clearPending := by simp }

theorem routeWord_keeps (law : LineLaw Q) (l : LineIx) (w : WordRecord) (h : AllLines Q s)
    (empty : (s.line l).asm.glyphs = []) : AllLines Q (routeWord l w s) := by
  simp only [routeWord]
  repeat' split
  · exact pairIfMarked_keeps law _ _ _ (h.of_lines (lines_offer ..))
  · refine holdItem_keeps law _ _ _ (h.of_lines (lines_offer ..)) fun _ => ?_
    rwa [line_eq_of_lines (lines_offer ..)]
  · exact h.of_lines rfl
  · exact unrouted_keeps law l h

theorem routeMarker_keeps (law : LineLaw Q) (l : LineIx) (f : Frame) (h : AllLines Q s)
    (empty : (s.line l).asm.glyphs = []) : AllLines Q (routeMarker l f s) := by
  obtain ⟨a, routed, same⟩ := line_routeMarker l f s
  refine (h.updAsm law (l := l) (f := fun _ => a) fun form => ?_).of_line same
  cases routed with
  | left => exact form
  | unrouted => exact { form with }
  | held k => exact { form with stalled := fun _ => empty, clearPending := by simp }

theorem glyphs_routeWord (l : LineIx) (w : WordRecord) (s : State) :
    ((routeWord l w s).line l).asm.glyphs = (s.line l).asm.glyphs := by
  simp only [routeWord]
  repeat' split
  · rw [asm_pairIfMarked, line_eq_of_lines (lines_offer ..)]
  · rw [holdItem, line_updAsm, if_pos rfl, line_eq_of_lines (lines_offer ..)]
  · rfl
  · rw [unrouted, line_updAsm, if_pos rfl]

/-- A completed word stands under assembly no more. -/
theorem glyphs_completed (l : LineIx) (w : WordRecord) (r : Bool) (s : State) :
    ((testFirstWord l w r (s.updAsm l afterCompletion)).line l).asm.glyphs = [] := by
  rw [testFirstWord, line_updLat, if_pos rfl, line_updAsm, if_pos rfl]; rfl

theorem glyphs_flushWord (l : LineIx) (s : State) : ((flushWord l s).line l).asm.glyphs = [] := by
  rw [flushWord]
  split
  · next empty => simpa using empty
  · rw [completeWord, glyphs_routeWord, glyphs_completed]

theorem completeWord_keeps (law : LineLaw Q) (l : LineIx) (b : Bool) (h : AllLines Q s) :
    AllLines Q (completeWord l b s) := by
  simp only [completeWord]
  refine routeWord_keeps law l _ ?_ (glyphs_completed ..)
  exact AllLines.updLat (h.updAsm law AssemblerForm.afterCompletion) law rfl

theorem flushWord_keeps (law : LineLaw Q) (l : LineIx) (h : AllLines Q s) : AllLines Q (flushWord l s) := by
  rw [flushWord]
  split
  · exact h
  · exact completeWord_keeps law l _ h

/-! ### Items from the decoder -/

theorem takeGlyph_keeps (law : LineLaw Q) (l : LineIx) (g : KeyedGlyph) (h : AllLines Q s)
    (free : (s.line l).asm.held = none) : AllLines Q (takeGlyph l g s) := by
  have appended : AllLines Q ((endHoldByGlyph l s).updAsm l (appendGlyph s.pfn g)) := by
    refine AllLines.updAsm (h.of_lines (lines_endHoldByGlyph l s)) law ?_
    rw [line_eq_of_lines (lines_endHoldByGlyph l s)]
    exact fun form => form.appendGlyph free _ _
  simp only [takeGlyph]
  split
  · exact (completeWord_keeps law l _ appended).updAsm law fun form => { form with }
  · exact appended

theorem takeDelimiter_keeps (law : LineLaw Q) (l : LineIx) (h : AllLines Q s) :
    AllLines Q (takeDelimiter l s) := by
  rw [takeDelimiter]
  split
  · exact h.updAsm law fun form => { form with }
  · exact completeWord_keeps law l _ h

theorem takeBreak_keeps (law : LineLaw Q) (l : LineIx) (h : AllLines Q s) : AllLines Q (takeBreak l s) := by
  rw [takeBreak]
  split
  · exact h.updAsm law fun form => { form with }
  · exact completeWord_keeps law l _ h

theorem takeSpeaker_keeps (law : LineLaw Q) (l : LineIx) (h : AllLines Q s) :
    AllLines Q (takeSpeaker l s) := h.updAsm law fun form => { form with }

theorem takeClearCommand_keeps (law : LineLaw Q) (l : LineIx) (h : AllLines Q s) :
    AllLines Q (takeClearCommand l s) := by
  simp only [takeClearCommand]
  have flushed := flushWord_keeps law l h
  split
  · next held => exact flushed.updAsm law fun form => { form with clearPending := fun _ => held }
  · exact routeMarker_keeps law l _ flushed (glyphs_flushWord l s)

theorem reopenWord_keeps (law : LineLaw Q) (l : LineIx) (v : ServiceIx) (w : WordRecord) (f : Frame)
    (h : AllLines Q s) (free : (s.line l).asm.held = none) : AllLines Q (reopenWord l v w f s) :=
  AllLines.of_lines (h.updAsm law fun form => form.reopen free v w f _) rfl

theorem held_dropTail (l : LineIx) (v : ServiceIx) (e : Entry) (s : State) :
    ((dropTail v e s).line l).asm.held = (s.line l).asm.held := by
  show ((s.lines.map (oweRetry v)).get l).asm.held = (s.lines.get l).asm.held
  rw [Quad.get_map, oweRetry_eq]
  split <;> rfl

theorem takeBackspace_keeps (law : LineLaw Q) (l : LineIx) (h : AllLines Q s)
    (free : (s.line l).asm.held = none) : AllLines Q (takeBackspace l s) := by
  have late : AllLines Q (lateCorrection l s) := h.updAsm law fun form => { form with }
  rw [takeBackspace]
  split
  · next word => exact h.updAsm law fun form => form.dropGlyph_of_word (by simpa using word)
  split
  · exact late
  split
  · exact reopenWord_keeps law _ _ _ _ (dropTail_keeps law _ _ h) (by rwa [held_dropTail])
  · exact reopenWord_keeps law _ _ _ _ (h.of_lines rfl) free
  · exact late

theorem discard_keeps (law : LineLaw Q) (l : LineIx) (h : AllLines Q s) : AllLines Q (discard l s) :=
  h.updLine (law.congr (h l) rfl rfl rfl rfl rfl rfl)

theorem takeCode_keeps (law : LineLaw Q) (l : LineIx) (i : IntakeItem) (h : AllLines Q s) :
    AllLines Q (takeCode l i s) := by
  have normal : AllLines Q (s.updLine l fun x => { x with commandPending := false }) :=
    h.updLine (law.congr (h l) rfl rfl rfl rfl rfl rfl)
  simp only [takeCode]
  repeat' split
  · exact discard_keeps law l normal
  · exact takeSpeaker_keeps law l normal
  · exact takeBreak_keeps law l normal
  · exact takeClearCommand_keeps law l normal
  · exact flushWord_keeps law l normal
  · exact normal.of_lines (lines_takeNext ..)
  · exact normal.of_lines (lines_takeHold ..)
  · exact discard_keeps law l normal

theorem decodeItem_keeps (law : LineLaw Q) (l : LineIx) (i : IntakeItem) (h : AllLines Q s)
    (free : (s.line l).asm.held = none) : AllLines Q (decodeItem l i s) := by
  rw [decodeItem]
  split
  · exact takeCode_keeps law l i h
  split
  · exact takeGlyph_keeps law l _ h free
  · exact takeDelimiter_keeps law l h
  · exact takeBackspace_keeps law l h free
  · exact h.updLine (law.congr (h l) rfl rfl rfl rfl rfl rfl)
  · exact discard_keeps law l h

/-! ### Leaving a stall, and the intake FIFO -/

theorem endStall_keeps (law : LineLaw Q) (l : LineIx) (h : AllLines Q s)
    (stalled : (s.line l).asm.held.isSome) : AllLines Q (endStall l s) := by
  simp only [endStall]
  split
  · next f _ =>
    obtain ⟨a, routed, same⟩ :=
      line_routeMarker l f (s.updAsm l fun a => { a with held := none, clearPending := none })
    rw [line_updAsm, if_pos rfl] at routed
    rw [updAsm_updAsm] at same
    exact (h.updAsm law fun form => form.endStall stalled routed).of_line same
  · exact h.updAsm law fun form => form.endStall stalled .left

theorem retryWord_keeps (law : LineLaw Q) (l : LineIx) (w : WordRecord) (h : AllLines Q s)
    (held : (s.line l).asm.held.isSome) : AllLines Q (retryWord l w s) := by
  simp only [retryWord]
  repeat' split
  · refine endStall_keeps law l (pairIfMarked_keeps law _ _ _ (h.of_lines (lines_offer ..))) ?_
    rwa [asm_pairIfMarked, line_eq_of_lines (lines_offer ..)]
  · refine holdItem_keeps law _ _ _ (h.of_lines (lines_offer ..)) fun form => form.stalled ?_
    rwa [line_eq_of_lines (lines_offer ..)]
  · refine endStall_keeps law l (AllLines.updLat (h.of_lines rfl) law rfl) ?_
    rw [clearMark, line_updLat, if_pos rfl]; exact held
  · refine endStall_keeps law l (AllLines.updLat (unrouted_keeps law l h) law rfl) ?_
    rw [clearMark, line_updLat, if_pos rfl, unrouted, line_updAsm, if_pos rfl]; exact held

theorem retryMarker_keeps (law : LineLaw Q) (l : LineIx) (a : Frame) (h : AllLines Q s)
    (held : (s.line l).asm.held.isSome) : AllLines Q (retryMarker l a s) := by
  have left : AllLines Q (endStall l (unrouted l s)) := by
    refine endStall_keeps law l (unrouted_keeps law l h) ?_
    rw [unrouted, line_updAsm, if_pos rfl]; exact held
  simp only [retryMarker]
  repeat' split
  · exact endStall_keeps law l (h.of_lines (lines_offer ..)) (by rwa [line_eq_of_lines (lines_offer ..)])
  · refine holdItem_keeps law _ _ _ (h.of_lines (lines_offer ..)) fun form => form.stalled ?_
    rwa [line_eq_of_lines (lines_offer ..)]
  · exact left

theorem retryHeld_keeps (law : LineLaw Q) (l : LineIx) (h : AllLines Q s) : AllLines Q (retryHeld l s) := by
  have looked : AllLines Q (s.updAsm l fun a => { a with retryOwed := false }) :=
    h.updAsm law fun form => { form with }
  simp only [retryHeld]
  split
  · exact looked
  next k held =>
  have stalled : ((s.updAsm l fun a => { a with retryOwed := false }).line l).asm.held.isSome := by
    rw [line_updAsm, if_pos rfl]; simp [held]
  split
  · exact retryWord_keeps law l _ looked stalled
  · exact retryMarker_keeps law l _ looked stalled

theorem afterRemoval_keeps (law : LineLaw Q) {x : Line} (h : Q x) : Q (afterRemoval x) := by
  simp only [afterRemoval]
  split
  · exact law.release (law.congr h rfl rfl rfl rfl rfl rfl)
  · exact law.congr h rfl rfl rfl rfl rfl rfl

theorem asm_transmit (x : Line) : (transmit x).asm = x.asm := by rw [transmit]; split <;> rfl

theorem asm_afterRemoval (x : Line) : (afterRemoval x).asm = x.asm := by
  simp only [afterRemoval]
  split
  · exact asm_transmit _
  · rfl

theorem handItem_keeps (law : LineLaw Q) {l : LineIx} (e : handItem l s = some t) (h : AllLines Q s) :
    AllLines Q t := by
  rw [handItem] at e
  split at e
  · simp at e
  next free =>
  split at e
  · simp at e
  obtain rfl := Option.some.inj e
  refine decodeItem_keeps law l _ (h.updLine (afterRemoval_keeps law (h l))) ?_
  rw [line_updLine, if_pos rfl, asm_afterRemoval]
  simpa [stalled] using free

/-! ### Work -/

theorem serveQueue_keeps (law : LineLaw Q) (v : ServiceIx) (settled : ∀ {s}, AllLines Q s → AllLines Q (settle s))
    (h : AllLines Q s) : AllLines Q (serveQueue v s) := by
  rw [serveQueue]
  split
  · refine serveUpTo_keeps (P := AllLines Q) v (fun r h => ?_) settled (fun h => h.of_lines rfl) _ (settled h)
    exact (dropHead_keeps law v _ h).of_lines (lines_releaseHead r)
  · exact h

theorem failover_keeps (law : LineLaw Q) (v : ServiceIx) (a b : LineIx) (h : AllLines Q s) :
    AllLines Q (failover v a b s) := by
  refine (flushWord_keeps law a h).of_lines ?_
  rw [failover]
  exact (lines_mergeStandby v _).trans rfl

theorem switchLine_keeps (law : LineLaw Q) (v : ServiceIx) (c : Choice) (h : AllLines Q s) :
    AllLines Q (switchLine v c s) := by
  have flushed : AllLines Q (match attachedLine (s.service v) with
      | some old => flushWord old s
      | none => s) := by
    split
    · exact flushWord_keeps law _ h
    · exact h
  simp only [switchLine]
  split
  · exact flushed.of_lines ((lines_mergeStandby v _).trans rfl)
  · exact flushed.of_lines rfl

theorem checkSilence_keeps (law : LineLaw Q) (v : ServiceIx) (h : AllLines Q s) :
    AllLines Q (checkSilence v s) := by
  simp only [checkSilence]
  split
  · split
    · exact h
    split
    · exact h.of_lines rfl
    split
    · exact failover_keeps law v _ _ h
    split
    · exact h
    · exact h.of_lines rfl
  · exact h

theorem lines_startDrain (v : ServiceIx) (k : Nat) (s : State) :
    (startDrain v k s).lines = (removeCues v k (s.updRunner v fun r =>
      { r with phase := .draining, nextBase := none })).lines := by
  rw [startDrain, lines_drainCheck]; rfl

theorem startDrain_keeps (law : LineLaw Q) (v : ServiceIx) (k : Nat) (h : AllLines Q s) :
    AllLines Q (startDrain v k s) := by
  refine AllLines.of_lines ?_ (lines_startDrain v k s)
  rw [removeCues]
  split
  · exact h.of_lines rfl
  · exact departed_keeps law v _ (h.of_lines rfl)

theorem perform_keeps (law : LineLaw Q) (w : Work) (settled : ∀ {s}, AllLines Q s → AllLines Q (settle s))
    (h : AllLines Q s) : AllLines Q (perform w s) := by
  cases w with
  | edge i => exact h.of_lines (lines_acceptEdge i s)
  | onsetExpiry v => exact h.of_lines rfl
  | flush l =>
    rw [perform, checkFlush]
    split
    · exact flushWord_keeps law l h
    · exact h
  | ageOut v => exact h.of_lines (lines_ageOut v s)
  | holdEnd v => exact h.of_lines (lines_endHold v s)
  | silence v => exact checkSilence_keeps law v h
  | timed v => exact h.of_lines (lines_checkTimed v s)
  | retry l =>
    rw [perform, frameRetry]
    split
    · exact retryHeld_keeps law l h
    · exact h
  | serve v => exact serveQueue_keeps law v settled h
  | blockHold v => exact h.of_lines (builds_checkHold v s).lines
  | append v => exact h.of_lines (lines_attemptAppend v s)
  | stale v => exact h.of_lines (builds_checkStale v s).lines
  | dmax v => exact h.of_lines (builds_checkDmax v s).lines
  | drain v => exact h.of_lines (lines_drainCheck v s)

theorem lines_takeHead {v : ServiceIx} (e : takeHead v s = some t) :
    ∃ k, t.lines = (dropHead v k s).lines := by
  simp only [takeHead] at e
  repeat' split at e
  all_goals simp only [Option.some.injEq, reduceCtorEq] at e
  all_goals subst e
  · exact ⟨_, (builds_takeWord ..).lines⟩
  · exact ⟨_, (builds_takeClear ..).lines⟩
  · exact ⟨_, (builds_takeCue ..).lines⟩

theorem keepsWork_lines (law : LineLaw Q) : KeepsWork (AllLines Q) := by
  have builder {s t : State} {v : ServiceIx} (e : carryOutClosing v s = some t ∨ formBlock v s = some t)
      (h : AllLines Q s) : AllLines Q t := by
    obtain e | e := e
    · exact h.of_lines (builds_carryOutClosing e).lines
    · exact h.of_lines (builds_formBlock e).lines
  have take {s t : State} {v : ServiceIx} (e : takeHead v s = some t) (h : AllLines Q s) : AllLines Q t := by
    obtain ⟨k, same⟩ := lines_takeHead e
    exact (dropHead_keeps law v k h).of_lines same
  have settled {s : State} (h : AllLines Q s) : AllLines Q (settle s) := by
    refine settle_keeps (fun s t e h => ?_) s h
    obtain ⟨v, e⟩ | ⟨v, e⟩ | ⟨v, e⟩ | ⟨l, -, rfl⟩ | ⟨l, e⟩ := react_cases e
    · exact builder (.inl e) h
    · exact builder (.inr e) h
    · exact take e h
    · exact retryHeld_keeps law l h
    · exact handItem_keeps law e h
  exact {
    agenda := fun _ h => h.of_lines rfl
    carryOut := fun e h => builder (.inl e) h
    form := fun e h => builder (.inr e) h
    take := take
    retry := fun l h => retryHeld_keeps law l h
    hand := fun e h => handItem_keeps law e h
    perform := fun w h => perform_keeps law w settled h }

/-! ### The other parts of a step -/

theorem receive_keeps (law : LineLaw Q) (l : LineIx) (r : LineRecord) (data : Byte) (pbit stop : Bool)
    (h : AllLines Q s) : AllLines Q (receive l r data pbit stop s) := by
  have handed {s : State} (i : IntakeItem) (h : AllLines Q s) : AllLines Q (handOn l i s) := by
    rw [handOn]
    split
    · next free => exact decodeItem_keeps law l i h (by simp [stalled] at free; exact free.2)
    split
    · refine h.updLine ?_
      have joined : Q { s.line l with fifo := (s.line l).fifo ++ [i] } :=
        law.congr (h l) rfl rfl rfl rfl rfl rfl
      simp only [appendIntake]
      split
      · next flow => exact law.mark (by simp at flow; exact flow.1.1) joined
      · exact joined
    · have counted : AllLines Q (s.updLine l fun x =>
          { x with overruns := bump x.overruns, overrunOpen := true }) :=
        h.updLine (law.congr (h l) rfl rfl rfl rfl rfl rfl)
      rw [overrun]
      split
      · exact counted
      · exact counted.of_lines rfl
  have counted (p f : Bool) : AllLines Q (s.updLine l (countCharacter s.pfn p f)) :=
    h.updLine (law.congr (h l) rfl rfl rfl rfl rfl rfl)
  simp only [receive]
  repeat' split
  · exact handed _ (counted _ _)
  · exact counted _ _
  · exact handed _ (counted _ _)

theorem keepsWire_lines (law : LineLaw Q) : KeepsWire (AllLines Q) where
  startBit l high h := h.updLine (by
    rw [startBit]
    split
    · exact law.congr (h l) rfl rfl rfl rfl rfl rfl
    · exact h l)
  wireHigh l h := h.updLine (by
    rw [wireHigh]
    split
    · exact law.congr (h l) rfl rfl rfl rfl rfl rfl
    · exact h l)
  sent l h := h.updLine (law.sent (h l))
  passOver l h := h.updLine (by
    rw [passOver]
    split
    · exact law.congr (h l) rfl rfl rfl rfl rfl rfl
    · exact h l)
  receive l r data pbit stop h := receive_keeps law l r data pbit stop h

theorem keepsCarriage_lines : KeepsCarriage (AllLines Q) where
  out _ h := h.of_lines rfl
  assemble h := h.of_lines ((buildsAny_assemble _).lines.trans (by rw [applyMap_eq]))
  reportGone h := h.of_lines rfl

theorem keepsFrames_lines (law : LineLaw Q) : KeepsFrames (AllLines Q) where
  begin_ levels h := beginFrame_keeps levels (fun h => h.of_lines rfl)
    (fun h => AllLines.of_lines (h.map fun _ => law.held _) rfl) (fun _ _ h => h.of_lines rfl)
    (fun h => h.of_lines rfl) h
  port _ _ _ _ h := h.of_lines rfl
  raise _ h := h.of_lines rfl

theorem restartLine_keeps (law : LineLaw Q) (v : ServiceIx) {x : Line} (h : Q x) : Q (restartLine v x) := by
  have assembled : Q { x with asm := (restartLine v x).asm } := law.asm (fun form => form.restartLine v) h
  refine law.congr assembled rfl rfl rfl rfl rfl ?_
  rw [restartLine_eq]
  dsimp only
  split <;> rfl

theorem keepsRequests_lines (law : LineLaw Q) : KeepsRequests (AllLines Q) where
  out _ h := h.of_lines rfl
  answer _ _ h := h.of_lines rfl
  softReset _ h := AllLines.of_lines (h.map fun _ => law.soft _) rfl
  setDevice _ h := h.of_lines rfl
  loadLine e h := h.updLine (law.load _ e (h _))
  loadService _ _ _ h := h.of_lines rfl
  close v h := h.of_lines (lines_closeOpen v _ _)
  restart v h := AllLines.of_lines (h.map fun _ => restartLine_keeps law v) rfl
  slotMap _ h := h.of_lines rfl
  story _ _ h := h.of_lines rfl
  cue _ _ _ h := h.of_lines rfl
  gpi _ h := h.of_lines rfl
  arm _ _ _ h := h.of_lines rfl
  issue _ e h := h.of_lines (lines_issueCue e)
  refused v h := h.of_lines (lines_cueRefused v _)
  disarm _ h := h.of_lines rfl
  drain _ h := startDrain_keeps law _ _ h
  mode v m h := h.of_lines (lines_setMode v m _)
  switch v c h := switchLine_keeps law v c h
  clear v h := h.of_lines (lines_clearService v _)
  noticed h := h.of_lines rfl
  figuresRead _ h := h.of_lines rfl

end

end Sys2Proof.Machine
end

section
/-! What the present state cannot take, the shape of a step, resets, and the laws that rest on lines alone. -/

namespace Sys2Proof.Machine

/-! ### What is not taken (log 7) -/

theorem whenAwake_low {s : State} (f : State → State) (low : s.resetLow = true) : whenAwake s f = s := by
  rw [whenAwake, if_pos low]

theorem whenAwake_awake {s : State} (f : State → State) (awake : s.resetLow = false) :
    whenAwake s f = f s := by
  rw [whenAwake, if_neg (by simp [awake])]

theorem controlArrival_not_taken {kind : Byte} {p : Request} {carry : Request → State → Handled} {s : State}
    (h : takesPackets s = false) : controlArrival kind p carry s = s := by
  rw [controlArrival, h]; rfl

theorem softResetArrival_not_taken {p : Request} {s : State} (h : takesPackets s = false) :
    softResetArrival p s = s := by
  rw [softResetArrival, h]; rfl

theorem arrivalOfKind_not_taken {kind : Byte} {p : Request} {s : State} (h : takesPackets s = false) :
    arrivalOfKind kind p s = s := by
  rw [arrivalOfKind]
  split
  all_goals first
    | exact controlArrival_not_taken h
    | exact softResetArrival_not_taken h

theorem ancillary_not_taken {packet : List Byte} {s : State} (h : takesPackets s = false) :
    ancillary packet s = s := by
  rw [ancillary.eq_def]
  repeat' split
  · rfl
  · exact arrivalOfKind_not_taken h
  all_goals simp_all

/-- Outside LOCKED, and while the RESET pin is low, no packet is taken. -/
theorem exec_packet_not_taken {c : Instr} {s : State} (packet : c.carriesPacket = true)
    (h : takesPackets s = false) : exec c s = .next s := by
  cases c
  case captionPacketRemoved => exact congrArg _ (ancillary_not_taken h)
  case controlPacketForwarded => exact congrArg _ (ancillary_not_taken h)
  case unknownRequest => exact congrArg _ (arrivalOfKind_not_taken h)
  case softReset => exact congrArg _ (softResetArrival_not_taken h)
  all_goals first
    | exact Bool.noConfusion packet
    | exact congrArg Host.Outcome.next (controlArrival_not_taken h)

/-- While the RESET pin is low only a reset has an effect. -/
theorem exec_low {c : Instr} {s : State} (low : s.resetLow = true) (reset : c.isReset = false) :
    exec c s = .next s := by
  have awake (f : State → State) : Host.Outcome.next (whenAwake s f) =
      (.next s : Host.Outcome State Fault Refusal) := by rw [whenAwake_low f low]
  have taken : takesPackets s = false := by simp [takesPackets, low]
  by_cases packet : c.carriesPacket = true
  · exact exec_packet_not_taken packet taken
  cases c
  case carriagePoint => rw [exec, execCarriagePoint, taken]; rfl
  all_goals first
    | exact awake _
    | exact absurd rfl packet
    | exact Bool.noConfusion reset

theorem doWork_not_due {w : Work} {s : State} (h : w ∉ s.due) : doWork w s = s := by
  rw [doWork, if_neg (by simpa using h)]

theorem runWork_none_due (w : Work) {s : State} (h : s.due = []) : runWork w s = s := by
  have none (w : Work) : doWork w s = s := doWork_not_due (by simp [h])
  cases w
  all_goals simp [runWork, none, h]

/-- Settles O3: what the pin, the reference state or the agenda keeps out leaves the state as it was. -/
theorem eventsNotTaken : Obligations.EventsNotTaken := by
  have unlocked {s : State} (h : s.ref ≠ .locked) : takesPackets s = false := by simp [takesPackets, h]
  have idle {s : State} {f : State → State} (h : f s = s) :
      Host.Outcome.next (whenAwake s f) = (.next s : Host.Outcome State Fault Refusal) := by
    rw [whenAwake, h, ite_self]
  refine ⟨fun c s => exec_low, fun c s h packet => exec_packet_not_taken packet (unlocked h), ?_, ?_, ?_, ?_⟩
  · intro s d h
    rw [exec, execCarriagePoint, unlocked h]; rfl
  · exact fun s lv f1 f2 f3 h => idle (if_neg h)
  · exact fun s lv f h => idle (if_neg h)
  · intro s none
    have work (w : Work) : Host.Outcome.next (whenAwake s (runWork w)) =
        (.next s : Host.Outcome State Fault Refusal) := idle (runWork_none_due w none)
    refine ⟨fun l => ⟨work _, work _⟩, fun i => work _, fun v c hc => ?_⟩
    fin_cases hc
    all_goals exact work _

/-! ### The shape of a step -/

theorem doWork_of_due {w : Work} {s : State} (h : w ∈ s.due) :
    doWork w s = settle (perform w { s with due := s.due.erase w }) := by
  rw [doWork, if_pos (by simpa using h)]

/-- Settles O1. -/
theorem stepRunsFrontCommand : Obligations.StepRunsFrontCommand := by
  intro s
  have waiting (h : s.pending = []) : step s = .next (idle s) := by rw [step, h]
  refine ⟨fun c rest h => ?_, fun h none => ?_, fun h low => ?_, fun w rest h due awake => ?_⟩
  · rw [step, h]
  · rw [waiting h, idle, none]
  · rw [waiting h, idle]
    split
    · rfl
    · rw [whenAwake_low _ low]
  · rw [waiting h, idle, due]
    dsimp only
    rw [whenAwake_awake _ awake, doWork_of_due (by simp [due]), due, List.erase_cons_head]

/-! ### Resets -/

/-- Settles O12: the reset values, field by field. -/
theorem resetsTaken : Obligations.ResetsTaken := fun _ => ⟨rfl, rfl, rfl⟩

theorem line_reset (l : LineIx) : State.reset.line l = resetLine := Quad.get_fill ..

theorem input_reset (i : InputIx) : State.reset.input i = resetInput := Oct.get_fill ..

theorem service_reset (v : ServiceIx) : State.reset.service v = resetService := Quad.get_fill ..

theorem inRange_reset : InRange State.reset where
  delay := by decide
  address := by decide
  lines l := by
    rw [line_reset]
    constructor <;> decide
  services v := by
    rw [service_reset]
    constructor <;> decide
  inputs i := by rw [input_reset]; decide

theorem runnerForm_reset : RunnerForm resetService where
  idle _ := by constructor <;> rfl
  holds h := absurd rfl h
  running h := nomatch h
  suspended h := nomatch h

/-- Settles O9: each law at the reset values. -/
theorem lawsHoldAtReset : Obligations.LawsHoldAtReset := by
  refine ⟨fits_reset, inRange_reset, ⟨rfl, rfl, nofun⟩, fun u v l h => ?_, fun l => ?_, fun v => ?_,
    fun _ l _ => ?_, fun l _ => ?_⟩
  · rw [service_reset] at h; exact absurd h (by simp [hasLine, resetService, resetServiceRecord])
  · rw [line_reset]; exact assemblerForm_reset
  · rw [service_reset]; exact runnerForm_reset
  · rw [line_reset]; rfl
  · rw [line_reset]; rfl

/-! ### The laws of the assemblers and of the transmitters -/

theorem asm_setXoff (b : Bool) (x : Line) : (setXoff b x).asm = x.asm := asm_transmit _

theorem asm_sent (x : Line) : (sent x).asm = x.asm := by
  rw [sent]; split
  · exact asm_transmit _
  · rfl

theorem asm_loadRecord (pfn : Frame) (r : LineRecord) (x : Line) : (loadRecord pfn r x).asm = x.asm := by
  simp only [loadRecord]; split
  · exact asm_setXoff ..
  · rfl

theorem lineLaw_form : LineLaw fun x => AssemblerForm x.asm where
  congr h _ _ _ _ asm _ := by rw [asm]; exact h
  asm form h := form h
  sample _ _ h := h
  release h := by rw [asm_setXoff]; exact h
  mark _ h := by rw [asm_setXoff]; exact h
  sent h := by rw [asm_sent]; exact h
  held pfn h := h.heldLine pfn
  load pfn _ h := by rw [asm_loadRecord]; exact h
  soft pfn _ := by rw [softLine, asm_setXoff]; exact assemblerForm_reset

/-- A step keeps a law of lines that every reset gives and that a character cut short leaves. -/
theorem step_keeps_lines {Q : Line → Prop} (law : LineLaw Q) (reset : Q resetLine)
    (cut : ∀ x, Q x → Q (cutShort x)) {s t : State} (h : AllLines Q s) (e : step s = .next t) :
    AllLines Q t := by
  refine step_keeps (fun _ h => h.of_lines rfl) (keepsWork_lines law) (keepsWire_lines law)
    keepsCarriage_lines (keepsRequests_lines law) (keepsFrames_lines law) (fun c h e => ?_) h e
  obtain ⟨low, rfl⟩ | rfl := exec_reset_cases c e
  · exact AllLines.of_lines (s := State.reset) (fun l => by rw [line_reset]; exact reset) rfl
  · exact AllLines.of_lines (h.map cut) rfl

/-- Settles O6: the form is a law of each line, and every change of an assembler keeps it. -/
theorem assemblersKeepTheirForm : Obligations.AssemblersKeepTheirForm := fun _ _ =>
  step_keeps_lines lineLaw_form assemblerForm_reset fun _ h => h

/-- R24, R25: an idle transmitter has sent what the mark calls for, and the mark is clear with flow control
off. -/
structure Follows (x : Line) : Prop where
  sent : x.sending = none → x.lastSent = calledFor x
  clear : x.record.flow = false → x.xoff = false

theorem calledFor_congr {x y : Line} (h : y.xoff = x.xoff) : calledFor y = calledFor x := by
  rw [calledFor, h]; rfl

/-- Whatever it last sent, a transmitter that looks at its mark agrees with it. -/
theorem follows_transmit {x : Line} (clear : x.record.flow = false → x.xoff = false) :
    Follows (transmit x) := by
  rw [transmit]
  split
  · exact ⟨nofun, clear⟩
  · next idle =>
    refine ⟨fun silent => ?_, clear⟩
    simp [silent] at idle
    exact idle.symm

theorem follows_setXoff {x : Line} {b : Bool} (clear : x.record.flow = false → b = false) :
    Follows (setXoff b x) := follows_transmit clear

theorem lineLaw_follows : LineLaw Follows where
  congr h record xoff last sending _ _ :=
    ⟨by rw [sending, last, calledFor_congr xoff]; exact h.sent, by rw [record, xoff]; exact h.clear⟩
  asm _ h := ⟨h.sent, h.clear⟩
  sample _ _ h := ⟨h.sent, h.clear⟩
  release _ := follows_setXoff fun _ => rfl
  mark flow _ := follows_setXoff fun off => absurd (flow.symm.trans off) (by simp)
  sent {x} h := by
    rw [Machine.sent]
    split
    · exact follows_transmit h.clear
    · exact h
  held _ h := ⟨h.sent, h.clear⟩
  load {x _ _ r _} pfn _ h := by
    simp only [loadRecord]
    split
    · exact follows_setXoff fun _ => rfl
    · next keep =>
      refine ⟨h.sent, fun off => ?_⟩
      show x.xoff = false
      cases mark : x.xoff
      · rfl
      · have flow : x.record.flow = true := by
          cases flow : x.record.flow
          · exact (h.clear flow).symm.trans mark
          · rfl
        have off : r.flow = false := off
        simp [flow, off, mark] at keep
  soft pfn _ := follows_setXoff fun _ => rfl

theorem allLines_follows_iff {s : State} (awake : s.resetLow = false) :
    AllLines Follows s ↔ TransmittersFollow s ∧ MarksFollowFlow s :=
  ⟨fun h => ⟨fun _ l => (h l).sent, fun l => (h l).clear⟩, fun h l => ⟨h.1 awake l, h.2 l⟩⟩

theorem exec_keeps_flow {c : Instr} {s t : State} (h : TransmittersFollow s ∧ MarksFollowFlow s)
    (e : exec c s = .next t) : TransmittersFollow t ∧ MarksFollowFlow t := by
  have marks (low : Bool) (q : List Instr) (lines : t = { State.reset with resetLow := low, pending := q }) :
      TransmittersFollow t ∧ MarksFollowFlow t := by
    subst lines
    have line (l : LineIx) : State.line { State.reset with resetLow := low, pending := q } l = resetLine :=
      line_reset l
    exact ⟨fun _ l _ => by rw [line]; rfl, fun l _ => by rw [line]; rfl⟩
  by_cases reset : c.isReset = true
  · obtain ⟨low, same⟩ | rfl := exec_reset_cases reset e
    · exact marks low _ same
    · refine ⟨fun awake => absurd awake (by simp), fun l off => ?_⟩
      have line : State.line { s with resetLow := true, due := [], out := [], lines := s.lines.map cutShort } l
          = cutShort (s.line l) := Quad.get_map ..
      rw [line] at off ⊢
      exact h.2 l off
  · have reset : c.isReset = false := by simpa using reset
    cases low : s.resetLow
    · have law := lineLaw_follows
      have follows := exec_keeps e (keepsWork_lines law) (keepsWire_lines law) keepsCarriage_lines
        (fun _ => keepsRequests_lines law) (fun _ => keepsFrames_lines law)
        (fun resets => absurd resets (by simp [reset])) ((allLines_follows_iff low).mpr h)
      exact ⟨fun _ l => (follows l).sent, fun l => (follows l).clear⟩
    · rw [exec_low low reset] at e
      obtain rfl := Host.Outcome.next.inj e
      exact h

/-- Settles O8. -/
theorem flowControlKept : Obligations.FlowControlKept := by
  intro s t h e
  rw [step] at e
  split at e
  · obtain rfl := Host.Outcome.next.inj e
    rw [idle]
    split
    · exact h
    · next w _ _ =>
      cases low : s.resetLow
      · rw [whenAwake_awake _ low]
        have follows := (keepsWork_lines lineLaw_follows).doWork w ((allLines_follows_iff low).mpr h)
        exact ⟨fun _ l => (follows l).sent, fun l => (follows l).clear⟩
      · rwa [whenAwake_low _ low]
  · next rest _ => exact exec_keeps_flow (s := { s with pending := rest }) h e

end Sys2Proof.Machine
end

section
/-! The script store, the ranges that the operand forms give, and the laws of the tables (O5, O30). -/

namespace Sys2Proof.Machine

/-! ### The script store (R87) -/

section

variable {α : Type}

theorem storeGet_storePut_same (k : Nat) (x : α) (m : List (Nat × α)) :
    storeGet k (storePut k x m) = some x := by
  induction m with
  | nil => simp [storePut, storeGet]
  | cons p rest ih =>
    obtain ⟨j, y⟩ := p
    rw [storePut]
    split
    · simp [storeGet]
    split
    · simp [storeGet]
    · next other => rw [storeGet, if_neg (fun e => other e.symm)]; exact ih

theorem storeGet_storePut_ne {j k : Nat} (x : α) (other : j ≠ k) (m : List (Nat × α)) :
    storeGet j (storePut k x m) = storeGet j m := by
  induction m with
  | nil => simp [storePut, storeGet, other.symm]
  | cons p rest ih =>
    obtain ⟨i, y⟩ := p
    rw [storePut]
    split
    · rw [storeGet, if_neg other.symm]
    split
    · next same => subst same; rw [storeGet, if_neg other.symm, storeGet, if_neg other.symm]
    · rw [storeGet, ih, storeGet]

/-- A record put behind a lesser number stands behind it. -/
theorem storeWf_cons_storePut {j k : Nat} (x y : α) (before : j < k) {m : List (Nat × α)}
    (h : storeWf ((j, y) :: m) = true) : storeWf ((j, y) :: storePut k x m) = true := by
  induction m generalizing j y with
  | nil => simp [storePut, storeWf, before]
  | cons p rest ih =>
    obtain ⟨i, z⟩ := p
    obtain ⟨first, formed⟩ : j < i ∧ storeWf ((i, z) :: rest) = true := by simpa [storeWf] using h
    rw [storePut]
    split
    · next lt => simp [storeWf, before, lt, formed]
    split
    · next same =>
      subst same
      cases rest <;> simp_all [storeWf]
    · next ge ne =>
      have := ih z (by omega : i < k) formed
      simp [storeWf, first, this]

theorem storeWf_storePut (k : Nat) (x : α) {m : List (Nat × α)} (h : storeWf m = true) :
    storeWf (storePut k x m) = true := by
  cases m with
  | nil => rfl
  | cons p rest =>
    obtain ⟨j, y⟩ := p
    rw [storePut]
    split
    · next lt => simp [storeWf, lt, h]
    split
    · next same => subst same; cases rest <;> simp_all [storeWf]
    · next ge ne => exact storeWf_cons_storePut x y (by omega) h

theorem mem_storePut {k : Nat} {x : α} {m : List (Nat × α)} {p : Nat × α} (h : p ∈ storePut k x m) :
    p = (k, x) ∨ p ∈ m := by
  induction m with
  | nil => simpa [storePut] using h
  | cons q rest ih =>
    obtain ⟨j, y⟩ := q
    rw [storePut] at h
    split at h
    · simpa using h
    split at h
    · simp only [List.mem_cons] at h ⊢; tauto
    · simp only [List.mem_cons] at h ⊢; tauto

end

/-- Settles O30. -/
theorem scriptStoreReads : Obligations.ScriptStoreReads := fun _ k x m =>
  ⟨storeGet_storePut_same k x m, fun _ h => storeGet_storePut_ne x h m, storeWf_storePut k x⟩

/-! ### The ranges that the operand forms give -/

theorem clampNat_between {lo hi : Nat} (h : lo ≤ hi) (n : Nat) : lo ≤ clampNat lo hi n ∧ clampNat lo hi n ≤ hi := by
  rw [clampNat]; omega

theorem clampOff_range (n : Nat) : clampOff n = 0 ∨ 50 ≤ clampOff n ∧ clampOff n ≤ 3000 := by
  rw [clampOff]
  split
  · exact .inl rfl
  · exact .inr (clampNat_between (by omega) n)

theorem parseDevice_ranges {b : List Byte} {d : DeviceRecord} {c : Bool} (h : parseDevice b = .ok (d, c)) :
    d.delay ≤ 600 ∧ d.address ≤ 14 := by
  simp only [parseDevice] at h
  split at h
  · simp at h
  · simp only [Except.ok.injEq, Prod.mk.injEq] at h
    obtain ⟨rfl, -⟩ := h
    simp

theorem asSubstitute_eq_some {b c : Byte} (h : asSubstitute b = some c) :
    0x20 ≤ c.toNat ∧ c.toNat ≤ 0x7E := by
  rw [asSubstitute] at h
  split at h
  · next range => obtain rfl := Option.some.inj h; exact range
  · simp at h

/-- Sections 2.1, 3.1 and 4.1: the ranges of a line record. -/
structure LineRecordRanges (r : LineRecord) : Prop where
  flush : 1 ≤ r.flushDelay ∧ r.flushDelay ≤ 250
  l0 : r.l0 ≤ 511
  window : r.lmin ≤ r.lmax ∧ r.lmax ≤ 511
  substitute : 0x20 ≤ r.substitute.toNat ∧ r.substitute.toNat ≤ 0x7E

theorem lineRanges_iff {x : Line} : LineRanges x ↔ LineRecordRanges x.record ∧ x.lat.lest ≤ 4088 :=
  ⟨fun h => ⟨⟨h.flush, h.l0, h.window, h.substitute⟩, h.lest⟩,
    fun ⟨h, lest⟩ => ⟨h.flush, h.l0, h.window, h.substitute, lest⟩⟩

theorem parseLine_ranges {b : List Byte} {l : LineIx} {r : LineRecord} {c : Bool}
    (h : parseLine b = .ok (l, r, c)) : LineRecordRanges r := by
  simp only [parseLine] at h
  split at h
  · simp at h
  split at h
  · next _ _ _ _ _ _ _ _ _ _ _ _ _ _ _ substitute _ =>
    simp only [Except.ok.injEq, Prod.mk.injEq] at h
    obtain ⟨-, rfl, -⟩ := h
    exact ⟨clampNat_between (by omega) _, by dsimp only; omega, by dsimp only; omega,
      asSubstitute_eq_some substitute⟩
  · simp at h

theorem parseService_ranges {b : List Byte} {v : ServiceIx} {r : ServiceRecord} {c : Bool}
    (h : parseService b = .ok (v, r, c)) : ServiceRanges r := by
  simp only [parseService] at h
  split at h
  · simp at h
  split at h
  · split at h
    · simp at h
    · simp only [Except.ok.injEq, Prod.mk.injEq] at h
      obtain ⟨-, rfl, -⟩ := h
      have dmin := clampNat_between (by omega : 12 ≤ 250) (num2 b 8)
      exact {
        width := clampNat_between (by omega) _
        rows := clampNat_between (by omega) _
        reading := clampNat_between (by omega) _
        dmin := dmin
        dmax := by dsimp only; omega
        holdLimit := clampNat_between (by omega) _
        tclear := clampOff_range _
        fs := clampOff_range _
        fh := by dsimp only; omega
        sofs := by dsimp only; rw [clampSofs]; omega
        priority := by dsimp only; omega
        gap := clampNat_between (by omega) _ }
  · simp at h

theorem parseGpi_range {b : List Byte} {i : InputIx} {r : GpiRecord} {c : Bool}
    (h : parseGpi b = .ok (i, r, c)) : r.nr ≤ 7 := by
  simp only [parseGpi] at h
  split at h
  · simp at h
  split at h
  · simp only [Except.ok.injEq, Prod.mk.injEq] at h
    obtain ⟨-, rfl, -⟩ := h
    dsimp only; omega
  · simp at h

/-! ### The ranges of a line -/

theorem frameDiff_moved_neg (o a : Frame) (k : Nat) :
    frameDiff o (moved a (-(k : Int))) = (a - o - BitVec.ofNat 32 k).toInt := by
  rw [frameDiff, moved, BitVec.ofInt_neg, BitVec.ofInt_natCast]
  congr 1
  bv_omega

/-- An onset within the window of Lmin and Lmax stands at most Lmax before the word. -/
theorem frameDiff_le_of_window {o a : Frame} {lmin lmax : Nat} (ordered : lmin ≤ lmax) (small : lmax ≤ 511)
    (recent : strictlyBefore o (moved a (-(lmax : Int))) = false)
    (old : atOrBefore o (moved a (-(lmin : Int))) = true) : (frameDiff o a).toNat ≤ lmax := by
  rw [strictlyBefore, frameDiff_moved_neg, decide_eq_false_iff_not, not_lt] at recent
  rw [atOrBefore, frameDiff_moved_neg, decide_eq_true_eq] at old
  rw [frameDiff]
  generalize a - o = d at *
  rw [BitVec.toInt_eq_toNat_cond, BitVec.toNat_sub] at recent old
  rw [BitVec.toInt_eq_toNat_cond]
  simp only [BitVec.toNat_ofNat] at recent old
  rw [Nat.mod_eq_of_lt (by omega : lmax < 2 ^ 32)] at recent
  rw [Nat.mod_eq_of_lt (by omega : lmin < 2 ^ 32)] at old
  have := d.isLt
  split at old <;> split at recent <;> split <;> omega

theorem lat_setXoff (b : Bool) (x : Line) : (setXoff b x).lat = x.lat := by
  rw [setXoff, transmit]; split <;> rfl

theorem lineRanges_setXoff {x : Line} (b : Bool) (h : LineRanges x) : LineRanges (setXoff b x) := by
  rw [lineRanges_iff, record_setXoff, lat_setXoff]
  exact lineRanges_iff.mp h

theorem lineLaw_ranges : LineLaw LineRanges where
  congr h record _ _ _ _ lest := by
    rw [lineRanges_iff, record, lest]; exact lineRanges_iff.mp h
  asm _ h := { h with }
  sample recent old h := by
    refine { h with lest := ?_ }
    have near := frameDiff_le_of_window h.window.1 h.window.2 recent old
    have bound := h.window.2
    have lest := h.lest
    show (if _ then _ else _) ≤ 4088
    split
    · refine le_trans (updateLest_between _ _).2 ?_
      omega
    · exact lest
  release h := lineRanges_setXoff _ h
  mark _ h := lineRanges_setXoff _ h
  sent {x} h := by
    rw [sent]
    split
    · exact lineRanges_setXoff x.xoff (x := { x with sending := none, lastSent := _ }) { h with }
    · exact h
  held _ h := { h with }
  load {x _ _ _ _} pfn parsed _ := by
    have ranges := parseLine_ranges parsed
    have l0 := ranges.l0
    simp only [loadRecord]
    split
    · exact lineRanges_setXoff _ (lineRanges_iff.mpr ⟨ranges, by dsimp only; omega⟩)
    · exact lineRanges_iff.mpr ⟨ranges, by dsimp only; omega⟩
  soft pfn h := by
    have l0 := h.l0
    exact lineRanges_setXoff _ { h with lest := by dsimp only; omega }

/-! ### The laws of the tables -/

/-- The laws of the settings: the ranges, the store's form, and the lines isolated. -/
structure Settings.Lawful (z : Settings) : Prop where
  delay : z.device.delay ≤ 600
  address : z.device.address ≤ 14
  services : ∀ v, ServiceRanges (z.serviceRecords.get v)
  inputs : ∀ i, (z.inputRecords.get i).nr ≤ 7
  stories : storeWf z.stories = true
  cues : storeWf z.cues = true
  texts : ∀ p ∈ z.cues, p.2.text.length ≤ 116
  isolated : ∀ u v l, (z.serviceRecords.get u).enabled = true → (z.serviceRecords.get v).enabled = true →
    ((z.serviceRecords.get u).primary = some l ∨ (z.serviceRecords.get u).backup = some l) →
    ((z.serviceRecords.get v).primary = some l ∨ (z.serviceRecords.get v).backup = some l) → u = v

theorem hasLine_iff {x : Service} {l : LineIx} :
    hasLine x l = true ↔ x.record.enabled = true ∧ (x.record.primary = some l ∨ x.record.backup = some l) := by
  simp [hasLine]

theorem serviceRecords_get (s : State) (v : ServiceIx) :
    s.settings.serviceRecords.get v = (s.service v).record := Quad.get_map ..

theorem inputRecords_get (s : State) (i : InputIx) :
    s.settings.inputRecords.get i = (s.input i).record := Oct.get_map ..

theorem lawful_iff {s : State} : AllLines LineRanges s ∧ s.settings.Lawful ↔
    InRange s ∧ StoreFormed s ∧ LinesIsolated s := by
  constructor
  · rintro ⟨lines, h⟩
    refine ⟨⟨h.delay, h.address, lines, fun v => ?_, fun i => ?_⟩, ⟨h.stories, h.cues, h.texts⟩,
      fun u v l hu hv => ?_⟩
    · rw [← serviceRecords_get]; exact h.services v
    · rw [← inputRecords_get]; exact h.inputs i
    · rw [hasLine_iff, ← serviceRecords_get] at hu hv
      exact h.isolated u v l hu.1 hv.1 hu.2 hv.2
  · rintro ⟨ranges, ⟨stories, cues, texts⟩, isolated⟩
    refine ⟨ranges.lines, ⟨ranges.delay, ranges.address, fun v => ?_, fun i => ?_, stories, cues, texts,
      fun u v l hu hv pu pv => ?_⟩⟩
    · rw [serviceRecords_get]; exact ranges.services v
    · rw [inputRecords_get]; exact ranges.inputs i
    · rw [serviceRecords_get] at hu hv pu pv
      exact isolated u v l (hasLine_iff.mpr ⟨hu, pu⟩) (hasLine_iff.mpr ⟨hv, pv⟩)

theorem linesInUse_eq_false {s : State} {v u : ServiceIx} {r : ServiceRecord} {l : LineIx}
    (h : linesInUse s v r = false) (other : u ≠ v) (line : r.primary = some l ∨ r.backup = some l) :
    hasLine (s.service u) l = false := by
  simp only [linesInUse, List.any_eq_false, Bool.and_eq_true, decide_eq_true_eq, Bool.or_eq_true,
    not_and, not_or] at h
  have free := h u (mem_fours u) other
  obtain line | line := line
  · simpa [line] using free.1
  · simpa [line] using free.2

/-- R72: a record that the checks of R72 let pass keeps the lines isolated. -/
theorem lawful_loadService {s : State} {b : List Byte} {v : ServiceIx} {r : ServiceRecord} {c : Bool}
    (parsed : parseService b = .ok (v, r, c))
    (same : (s.service v).record.enabled = true → r.enabled = true →
      r.primary = (s.service v).record.primary ∧ r.backup = (s.service v).record.backup)
    (free : (s.service v).record.enabled = false → r.enabled = true → linesInUse s v r = false)
    (h : s.settings.Lawful) : (s.updService v fun x => { x with record := r }).settings.Lawful := by
  have record (u : ServiceIx) : (s.updService v fun x => { x with record := r }).settings.serviceRecords.get u =
      if u = v then r else s.settings.serviceRecords.get u := by
    rw [serviceRecords_get, serviceRecords_get, service_updService]
    split <;> rfl
  have against {u : ServiceIx} {l : LineIx} (other : u ≠ v) (on : r.enabled = true)
      (hu : (s.settings.serviceRecords.get u).enabled = true)
      (pu : (s.settings.serviceRecords.get u).primary = some l ∨
        (s.settings.serviceRecords.get u).backup = some l)
      (pv : r.primary = some l ∨ r.backup = some l) : False := by
    cases was : (s.service v).record.enabled
    · have none := linesInUse_eq_false (free was on) other pv
      rw [serviceRecords_get] at hu pu
      exact absurd (hasLine_iff.mpr ⟨hu, pu⟩) (by simp [none])
    · obtain ⟨primary, backup⟩ := same was on
      rw [primary, backup, ← serviceRecords_get] at pv
      exact other (h.isolated u v l hu (by rw [serviceRecords_get]; exact was) pu pv)
  refine { h with services := fun u => ?_, isolated := fun u w l hu hw pu pw => ?_ }
  · rw [record]
    split
    · exact parseService_ranges parsed
    · exact h.services u
  · rw [record] at hu hw pu pw
    by_cases eu : u = v <;> by_cases ew : w = v
    · rw [eu, ew]
    · rw [if_pos eu] at hu pu
      rw [if_neg ew] at hw pw
      exact (against ew hu hw pw pu).elim
    · rw [if_neg eu] at hu pu
      rw [if_pos ew] at hw pw
      exact (against eu hw hu pu pw).elim
    · rw [if_neg eu] at hu pu
      rw [if_neg ew] at hw pw
      exact h.isolated u w l hu hw pu pw

theorem lawful_gpi {s : State} {b : List Byte} {i : InputIx} {r : GpiRecord} {c : Bool}
    (parsed : parseGpi b = .ok (i, r, c)) (h : s.settings.Lawful) :
    (s.updInput i fun x => rebaseline { x with record := r }).settings.Lawful := by
  refine { h with inputs := fun j => ?_ }
  rw [inputRecords_get, input_updInput]
  split
  · exact parseGpi_range parsed
  · rw [← inputRecords_get]; exact h.inputs j

/-- Laws of the settings that do not rest on the slot maps, the packets or the agenda. -/
theorem keepsWork_lawful : KeepsWork fun s => s.settings.Lawful where
  agenda _ h := { h with }
  carryOut e h := by rw [settings_carryOutClosing e]; exact h
  form e h := by rw [settings_formBlock e]; exact h
  take e h := by rw [settings_takeHead e]; exact h
  retry l h := by rw [settings_retryHeld]; exact h
  hand e h := by rw [settings_handItem e]; exact h
  perform w h := by rw [settings_perform]; exact h

theorem lawful_updLine {s : State} {l : LineIx} {f : Line → Line} (h : s.settings.Lawful) :
    (s.updLine l f).settings.Lawful := { h with }

theorem keepsWire_lawful : KeepsWire fun s => s.settings.Lawful where
  startBit _ _ h := lawful_updLine h
  wireHigh _ h := lawful_updLine h
  sent _ h := lawful_updLine h
  passOver _ h := lawful_updLine h
  receive l r d b b' h := by rw [settings_receive]; exact h

theorem keepsCarriage_lawful : KeepsCarriage fun s => s.settings.Lawful where
  out _ h := { h with }
  assemble h := by rw [settings_assemble]; exact { h with }
  reportGone h := h

theorem keepsFrames_lawful : KeepsFrames fun s => s.settings.Lawful where
  begin_ levels h := by rw [settings_beginFrame]; exact { h with }
  port _ _ _ _ h := { h with }
  raise _ h := h

theorem keepsRequests_lawful : KeepsRequests fun s => s.settings.Lawful where
  out _ h := { h with }
  answer _ _ h := h
  softReset {s} r h := by
    have same : ((softReset s).updCi (joinReply r)).settings = { s.settings with
        lineRecords := (s.lines.map (softLine s.pfn)).map Line.record } := rfl
    rw [same]; exact { h with }
  setDevice parsed h :=
    { h with delay := (parseDevice_ranges parsed).1, address := (parseDevice_ranges parsed).2 }
  loadLine _ h := lawful_updLine h
  loadService parsed same free h := lawful_loadService parsed same free h
  close v h := by rw [settings_closeOpen]; exact h
  restart v h := by rw [settings_restartService]; exact h
  slotMap _ h := { h with }
  story k _ h := { h with stories := storeWf_storePut _ _ h.stories }
  cue k x short h := { h with
    cues := storeWf_storePut _ _ h.cues
    texts := fun p hp => by
      obtain rfl | old := mem_storePut hp
      exacts [short, h.texts p old] }
  gpi parsed h := lawful_gpi parsed h
  arm _ _ _ h := by rw [settings_updRunner]; exact h
  issue _ e h := by rw [settings_issueCue e]; exact h
  refused v h := by rw [settings_cueRefused]; exact h
  disarm v h := by rw [settings_updRunner]; exact h
  drain _ h := by rw [settings_startDrain]; exact h
  mode v m h := by rw [settings_setMode]; exact h
  switch v c h := by rw [settings_switchLine]; exact h
  clear v h := by rw [settings_clearService]; exact h
  noticed h := h
  figuresRead v h := by rw [settings_updSched]; exact h

theorem lawful_reset : State.reset.settings.Lawful := by
  have isolated : LinesIsolated State.reset := lawsHoldAtReset.2.2.2.1
  exact (lawful_iff.mpr ⟨inRange_reset, ⟨rfl, rfl, nofun⟩, isolated⟩).2

theorem resets_lawful {c : Instr} {s t : State} (reset : c.isReset = true) (h : s.settings.Lawful)
    (e : exec c s = .next t) : t.settings.Lawful := by
  obtain ⟨low, rfl⟩ | rfl := exec_reset_cases reset e
  · exact { lawful_reset with }
  · exact { h with }

/-- Settles O5: the ranges of each line are a law of lines, the rest a law of the settings. -/
theorem tablesKeepTheirLaws : Obligations.TablesKeepTheirLaws := by
  intro s t h e
  rw [← lawful_iff] at h ⊢
  refine ⟨step_keeps_lines lineLaw_ranges ?_ (fun _ h => { h with }) h.1 e, ?_⟩
  · rw [← line_reset 0]; exact inRange_reset.lines 0
  · exact step_keeps (fun _ h => { h with }) keepsWork_lawful keepsWire_lawful keepsCarriage_lawful
      keepsRequests_lawful keepsFrames_lawful resets_lawful h.2 e

end Sys2Proof.Machine
end

section
/-! What work and reactions keep, where a law rests on the services and the reports but not on the lines. -/

namespace Sys2Proof.Machine

/-- A law of services and reports, by the parts of an event that touch them: what changes neither a runner
nor a mode, a notice, and the five operations of the story runner. -/
structure KeepsParts (P : State → Prop) : Prop where
  congr : ∀ {s t}, P s → t.services = s.services → t.ci = s.ci → P t
  service : ∀ {s v f}, P s → (f (s.service v)).runner = (s.service v).runner →
    (f (s.service v)).sel.mode = (s.service v).sel.mode → P (s.updService v f)
  builds : ∀ {s t v}, Builds v s t → P s → P t
  raise : ∀ {s} (n : Notice), P s → P (raise n s)
  trigger : ∀ {s} (v : ServiceIx) (a : Frame), P s → P (trigger v a s)
  timed : ∀ {s} (v : ServiceIx), P s → P (checkTimed v s)
  mode : ∀ {s} (v : ServiceIx) (m : Mode), P s → P (setMode v m s)
  drain : ∀ {s} (v : ServiceIx), P s → P (drainCheck v s)

section

variable {P : State → Prop} {s t : State}

theorem KeepsParts.updSched (k : KeepsParts P) {v : ServiceIx} {f : Scheduler → Scheduler} (h : P s) :
    P (s.updSched v f) := k.service h rfl rfl

theorem KeepsParts.updOnsets (k : KeepsParts P) {v : ServiceIx} {f : Onsets → Onsets} (h : P s) :
    P (s.updOnsets v f) := k.service h rfl rfl

theorem KeepsParts.updSel (k : KeepsParts P) {v : ServiceIx} {f : Selection → Selection}
    (h : P s) (mode : (f (s.service v).sel).mode = (s.service v).sel.mode) : P (s.updSel v f) :=
  k.service h rfl mode

theorem KeepsParts.updLine (k : KeepsParts P) {l : LineIx} {f : Line → Line} (h : P s) :
    P (s.updLine l f) := k.congr h rfl rfl

theorem KeepsParts.updAsm (k : KeepsParts P) {l : LineIx} {f : Assembler → Assembler} (h : P s) :
    P (s.updAsm l f) := k.congr h rfl rfl

theorem KeepsParts.updLat (k : KeepsParts P) {l : LineIx} {f : Latency → Latency} (h : P s) :
    P (s.updLat l f) := k.congr h rfl rfl

theorem parts_offer (k : KeepsParts P) (v : ServiceIx) (b : EntryBody) (f : Option Frame) (h : P s) :
    P (offer v b f s).2 := by
  rw [offer]; split
  · exact k.updSched (v := v) (f := join b (targetFrame s v b f) (latenessOf s v b f)) h
  · exact k.updSched (v := v) (f := fun q => { q with fullRefusals := bump q.fullRefusals }) h

theorem parts_departed (k : KeepsParts P) (v : ServiceIx) (f : Frame) (h : P s) : P (departed v f s) :=
  k.congr (k.updSched (v := v) (f := fun q => { q with lastLeft := some f }) h) rfl rfl

theorem parts_dropHead (k : KeepsParts P) (v : ServiceIx) (e : Entry) (h : P s) : P (dropHead v e s) :=
  parts_departed k v _ (k.updSched h)

theorem parts_pairIfMarked (k : KeepsParts P) (l : LineIx) (v : ServiceIx) (a : Frame) (h : P s) :
    P (pairIfMarked l v a s) := by
  rw [pairIfMarked]
  split
  · simp only [pairOnset]
    repeat' split
    · exact k.updLat (k.updOnsets (k.updOnsets h))
    all_goals exact k.updLat (k.updOnsets h)
  · exact h

theorem parts_routeWord (k : KeepsParts P) (l : LineIx) (w : WordRecord) (h : P s) : P (routeWord l w s) := by
  have joined (x : Selection) : (joinStandby w x).mode = x.mode := by rw [joinStandby]; split <;> rfl
  simp only [routeWord]
  repeat' split
  · exact parts_pairIfMarked k _ _ _ (parts_offer k _ _ _ h)
  · exact k.updAsm (parts_offer k _ _ _ h)
  · exact k.updSel h (joined _)
  · exact k.updAsm h

theorem parts_routeMarker (k : KeepsParts P) (l : LineIx) (a : Frame) (h : P s) : P (routeMarker l a s) := by
  simp only [routeMarker]
  repeat' split
  · exact parts_offer k _ _ _ h
  · exact k.updAsm (parts_offer k _ _ _ h)
  · exact k.updAsm h

theorem parts_completeWord (k : KeepsParts P) (l : LineIx) (b : Bool) (h : P s) : P (completeWord l b s) :=
  parts_routeWord k l _ (k.updLat (k.updAsm h))

theorem parts_flushWord (k : KeepsParts P) (l : LineIx) (h : P s) : P (flushWord l s) := by
  rw [flushWord]
  split
  · exact h
  · exact parts_completeWord k l _ h

theorem parts_reopenWord (k : KeepsParts P) (l : LineIx) (v : ServiceIx) (w : WordRecord) (f : Frame) (h : P s) :
    P (reopenWord l v w f s) :=
  k.congr (k.updAsm (l := l) (f := reopen v w f (reopenedFirst s)) h) rfl rfl

theorem parts_takeBackspace (k : KeepsParts P) (l : LineIx) (h : P s) : P (takeBackspace l s) := by
  rw [takeBackspace]
  repeat' split
  · exact k.updAsm h
  · exact k.updAsm h
  · exact parts_reopenWord k _ _ _ _ (parts_departed k _ _ (k.updSched h))
  · exact parts_reopenWord k _ _ _ _ (k.builds (builds_updOpen ..) h)
  · exact k.updAsm h

theorem parts_takeGlyph (k : KeepsParts P) (l : LineIx) (g : KeyedGlyph) (h : P s) : P (takeGlyph l g s) := by
  have held : P (endHoldByGlyph l s) := by
    rw [endHoldByGlyph]
    split
    · exact k.updSel h rfl
    · exact h
  simp only [takeGlyph]
  split
  · exact k.updAsm (parts_completeWord k l _ (k.updAsm held))
  · exact k.updAsm held

theorem parts_endStall (k : KeepsParts P) (l : LineIx) (h : P s) : P (endStall l s) := by
  simp only [endStall]
  split
  · exact parts_routeMarker k l _ (k.updAsm h)
  · exact k.updAsm h

theorem parts_retryHeld (k : KeepsParts P) (l : LineIx) (h : P s) : P (retryHeld l s) := by
  have joined (w : WordRecord) (x : Selection) : (joinStandby w x).mode = x.mode := by
    rw [joinStandby]; split <;> rfl
  have word {s : State} (w : WordRecord) (h : P s) : P (retryWord l w s) := by
    simp only [retryWord]
    repeat' split
    · exact parts_endStall k l (parts_pairIfMarked k _ _ _ (parts_offer k _ _ _ h))
    · exact k.updAsm (parts_offer k _ _ _ h)
    · exact parts_endStall k l (k.updLat (k.updSel h (joined w _)))
    · exact parts_endStall k l (k.updLat (k.updAsm h))
  have marker {s : State} (a : Frame) (h : P s) : P (retryMarker l a s) := by
    simp only [retryMarker]
    repeat' split
    · exact parts_endStall k l (parts_offer k _ _ _ h)
    · exact k.updAsm (parts_offer k _ _ _ h)
    · exact parts_endStall k l (k.updAsm h)
  simp only [retryHeld]
  repeat' split
  · exact k.updAsm h
  · exact word _ (k.updAsm h)
  · exact marker _ (k.updAsm h)

/-! ### The decoder and the work -/

theorem parts_decodeItem (k : KeepsParts P) (l : LineIx) (i : IntakeItem) (h : P s) : P (decodeItem l i s) := by
  have code {s : State} (h : P s) : P (takeCode l i s) := by
    simp only [takeCode]
    repeat' split
    · exact k.updLine (k.updLine h)
    · exact k.updAsm (k.updLine h)
    · rw [takeBreak]
      split
      · exact k.updAsm (k.updLine h)
      · exact parts_completeWord k _ _ (k.updLine h)
    · simp only [takeClearCommand]
      split
      · exact k.updAsm (parts_flushWord k l (k.updLine h))
      · exact parts_routeMarker k l _ (parts_flushWord k l (k.updLine h))
    · exact parts_flushWord k l (k.updLine h)
    · rw [takeNext]
      split
      · exact k.trigger _ _ (k.updLine h)
      · exact k.updLine h
    · rw [takeHold]
      repeat' split
      · exact k.updLine h
      · exact k.updSel (k.updLine h) rfl
      · exact k.updLine h
    · exact k.updLine (k.updLine h)
  rw [decodeItem]
  split
  · exact code h
  split
  · exact parts_takeGlyph k l _ h
  · rw [takeDelimiter]
    split
    · exact k.updAsm h
    · exact parts_completeWord k _ _ h
  · exact parts_takeBackspace k l h
  · exact k.updLine h
  · exact k.updLine h

theorem parts_mergeStandby (k : KeepsParts P) (v : ServiceIx) (h : P s) : P (mergeStandby v s).1 := by
  refine foldl_keeps (P := fun p : State × Nat => P p.1) (fun p w hp => ?_) _
    (show P (s.updSel v fun x => { x with standby := [] }) from k.updSel h rfl)
  have offered := parts_offer k v (.word w) none hp
  simp only [mergeOne]
  split
  · exact offered
  · exact k.updSel (v := v) (f := fun x => { x with mergeLost := bump x.mergeLost }) offered rfl

theorem parts_failover (k : KeepsParts P) (v : ServiceIx) (a b : LineIx) (h : P s) : P (failover v a b s) := by
  rw [failover]
  exact k.raise _ (k.updSel (parts_mergeStandby k v (k.updSel (parts_flushWord k a h) rfl)) rfl)

theorem parts_switchLine (k : KeepsParts P) (v : ServiceIx) (c : Choice) (h : P s) : P (switchLine v c s) := by
  have flushed : P (match attachedLine (s.service v) with
      | some old => flushWord old s
      | none => s) := by
    split
    · exact parts_flushWord k _ h
    · exact h
  simp only [switchLine]
  split
  · exact parts_mergeStandby k v (k.updSel flushed rfl)
  · exact k.updSel (k.updSel flushed rfl) rfl

theorem parts_checkSilence (k : KeepsParts P) (v : ServiceIx) (h : P s) : P (checkSilence v s) := by
  simp only [checkSilence]
  repeat' split
  · exact h
  · exact k.updSel h rfl
  · exact parts_failover k _ _ _ h
  · exact h
  · exact k.raise _ (k.updSel h rfl)
  · exact h

theorem parts_acceptEdge (k : KeepsParts P) (i : InputIx) (h : P s) : P (acceptEdge i s) := by
  have delivered {s : State} (r : GpiRecord) (a : Bool) (f : Frame) (h : P s) :
      P (deliver r a f s) := by
    simp only [deliver]
    repeat' split
    · exact h
    · rw [offerOnset]
      split
      · exact k.updOnsets h
      · exact h
    · exact h
    · exact k.trigger _ _ h
    · exact h
    · exact k.mode _ _ h
    · exact k.mode _ _ h
    · rw [beginMute]
      split
      · exact h
      · exact k.service (k.service (k.updSel h rfl) rfl rfl) rfl rfl
    · exact k.updSel h rfl
    · exact k.builds (builds_clearService ..) h
    all_goals exact h
  simp only [acceptEdge]
  split
  · exact delivered _ _ _ (k.congr h rfl rfl)
  · exact h

theorem parts_releaseHead (k : KeepsParts P) {v : ServiceIx} {e : Entry} (r : releaseHead v e s = some t) (h : P s) :
    P t := by
  have left : P (leaveByRelease v e s) := k.updSched (parts_dropHead k v e h)
  simp only [releaseHead] at r
  repeat' split at r
  all_goals simp only [Option.some.injEq, reduceCtorEq] at r
  all_goals subst r
  · exact k.updSel left rfl
  all_goals exact k.service (k.builds (builds_appendUnits ..) left) rfl rfl

theorem parts_takeHead (k : KeepsParts P) {v : ServiceIx} (e : takeHead v s = some t) (h : P s) : P t := by
  simp only [takeHead] at e
  repeat' split at e
  all_goals simp only [Option.some.injEq, reduceCtorEq] at e
  all_goals subst e
  · exact k.builds (builds_takeWord ..) (parts_dropHead k v _ h)
  · exact k.builds (builds_takeClear ..) (parts_dropHead k v _ h)
  · exact k.builds (builds_takeCue ..) (parts_dropHead k v _ h)

theorem parts_handItem (k : KeepsParts P) {l : LineIx} (e : handItem l s = some t) (h : P s) : P t := by
  rw [handItem] at e
  repeat' split at e
  all_goals simp only [Option.some.injEq, reduceCtorEq] at e
  subst e
  exact parts_decodeItem k l _ (k.updLine h)

theorem parts_settle (k : KeepsParts P) (h : P s) : P (settle s) := by
  refine settle_keeps (fun s t e h => ?_) s h
  obtain ⟨v, e⟩ | ⟨v, e⟩ | ⟨v, e⟩ | ⟨l, -, rfl⟩ | ⟨l, e⟩ := react_cases e
  · exact k.builds (builds_carryOutClosing e) h
  · exact k.builds (builds_formBlock e) h
  · exact parts_takeHead k e h
  · exact parts_retryHeld k l h
  · exact parts_handItem k e h

theorem parts_perform (k : KeepsParts P) (w : Work) (h : P s) : P (perform w s) := by
  cases w with
  | edge i => exact parts_acceptEdge k i h
  | onsetExpiry v => rw [perform, expireOnsets]; exact k.updOnsets h
  | flush l =>
    rw [perform, checkFlush]
    split
    · exact parts_flushWord k l h
    · exact h
  | ageOut v =>
    simp only [perform, ageOut]
    split
    · exact k.updSel h rfl
    · exact h
  | holdEnd v =>
    rw [perform, endHold]
    split
    · exact k.updSel h rfl
    · exact h
  | silence v => exact parts_checkSilence k v h
  | timed v => exact k.timed v h
  | retry l =>
    rw [perform, frameRetry]
    split
    · exact parts_retryHeld k l h
    · exact h
  | serve v =>
    rw [perform, serveQueue]
    split
    · exact serveUpTo_keeps v (parts_releaseHead k) (parts_settle k) (fun h => k.updSched h) _ (parts_settle k h)
    · exact h
  | blockHold v => exact k.builds (builds_checkHold v s) h
  | append v => exact k.builds (builds_attemptAppend v s) h
  | stale v => exact k.builds (builds_checkStale v s) h
  | dmax v => exact k.builds (builds_checkDmax v s) h
  | drain v => exact k.drain v h

theorem KeepsParts.keepsWork (k : KeepsParts P) : KeepsWork P where
  agenda _ h := k.congr h rfl rfl
  carryOut e h := k.builds (builds_carryOutClosing e) h
  form e h := k.builds (builds_formBlock e) h
  take e h := parts_takeHead k e h
  retry l h := parts_retryHeld k l h
  hand e h := parts_handItem k e h
  perform w h := parts_perform k w h

theorem KeepsParts.keepsWire (k : KeepsParts P) : KeepsWire P where
  startBit _ _ h := k.updLine h
  wireHigh _ h := k.updLine h
  sent _ h := k.updLine h
  passOver _ h := k.updLine h
  receive l r data pbit stop h := by
    have handed {s : State} (i : IntakeItem) (h : P s) : P (handOn l i s) := by
      rw [handOn]
      repeat' split
      · exact parts_decodeItem k l i h
      · exact k.updLine h
      · rw [overrun]
        split
        · exact k.updLine h
        · exact k.raise _ (k.updLine h)
    simp only [receive]
    repeat' split
    · exact handed _ (k.updLine h)
    · exact k.updLine h
    · exact handed _ (k.updLine h)

end

end Sys2Proof.Machine
end

section
/-! The form of the story runners (O7). -/

namespace Sys2Proof.Machine

section

variable {s t : State}

theorem RunnersFormed.congr (h : RunnersFormed s) (e : t.services = s.services) : RunnersFormed t := fun v => by
  rw [State.service, e]; exact h v

theorem RunnersFormed.of_runner_mode (h : RunnersFormed s) (runner : ∀ v, (t.service v).runner = (s.service v).runner)
    (mode : ∀ v, (t.service v).sel.mode = (s.service v).sel.mode) : RunnersFormed t := fun v =>
  { idle := by rw [runner]; exact (h v).idle
    holds := by rw [runner]; exact (h v).holds
    running := by rw [runner, mode]; exact (h v).running
    suspended := by rw [runner, mode]; exact (h v).suspended }

theorem RunnersFormed.updService {v : ServiceIx} {f : Service → Service} (h : RunnersFormed s)
    (runner : (f (s.service v)).runner = (s.service v).runner)
    (mode : (f (s.service v)).sel.mode = (s.service v).sel.mode) : RunnersFormed (s.updService v f) := by
  refine h.of_runner_mode (fun u => ?_) fun u => ?_
  all_goals
    rw [service_updService]
    split
    · next e => subst e; assumption
    · rfl

theorem RunnersFormed.updSched {v : ServiceIx} {f : Scheduler → Scheduler} (h : RunnersFormed s) :
    RunnersFormed (s.updSched v f) := h.updService rfl rfl

theorem RunnersFormed.updOnsets {v : ServiceIx} {f : Onsets → Onsets} (h : RunnersFormed s) :
    RunnersFormed (s.updOnsets v f) := h.updService rfl rfl

theorem RunnersFormed.updSel {v : ServiceIx} {f : Selection → Selection} (h : RunnersFormed s)
    (mode : (f (s.service v).sel).mode = (s.service v).sel.mode) : RunnersFormed (s.updSel v f) :=
  h.updService rfl mode

theorem RunnersFormed.updLine {l : LineIx} {f : Line → Line} (h : RunnersFormed s) :
    RunnersFormed (s.updLine l f) := h.congr rfl

theorem RunnersFormed.updAsm {l : LineIx} {f : Assembler → Assembler} (h : RunnersFormed s) :
    RunnersFormed (s.updAsm l f) := h.congr rfl

theorem RunnersFormed.updLat {l : LineIx} {f : Latency → Latency} (h : RunnersFormed s) :
    RunnersFormed (s.updLat l f) := h.congr rfl

theorem RunnersFormed.raise (n : Notice) (h : RunnersFormed s) : RunnersFormed (raise n s) := h.congr rfl

theorem RunnersFormed.builds {v : ServiceIx} (h : RunnersFormed s) (b : Builds v s t) : RunnersFormed t :=
  h.of_runner_mode (BuildsAny.of_builds b).runner (BuildsAny.of_builds b).mode

theorem runs_offer (v : ServiceIx) (b : EntryBody) (f : Option Frame) (h : RunnersFormed s) :
    RunnersFormed (offer v b f s).2 := by
  rw [offer]; split <;> exact h.updSched

theorem runs_departed (v : ServiceIx) (f : Frame) (h : RunnersFormed s) : RunnersFormed (departed v f s) :=
  (h.updSched (v := v) (f := fun q => { q with lastLeft := some f })).congr rfl

/-! ### The runners and the modes -/

/-- A form that only the service named is still to be given. -/
theorem RunnersFormed.set {v : ServiceIx} (others : ∀ u, u ≠ v → RunnerForm (s.service u))
    {f : Service → Service} (here : RunnerForm (f (s.service v))) : RunnersFormed (s.updService v f) := fun u => by
  rw [service_updService]
  split
  · exact here
  · next other => exact others u other

theorem runnerForm_idle (x : Service) : RunnerForm { x with runner := idleRunner x.runner } where
  idle _ := by constructor <;> rfl
  holds h := absurd rfl h
  running h := nomatch h
  suspended h := nomatch h

theorem runnerForm_arm (k : Nat) (st : Story) (x : Service) :
    RunnerForm { x with runner := armRunner k st x.runner } where
  idle h := nomatch h
  holds _ := rfl
  running h := nomatch h
  suspended h := nomatch h

theorem RunnerForm.enterScript {x : Service} (h : RunnerForm x) :
    RunnerForm { x with sel := { x.sel with mode := .script }, runner := onEnterScript x.runner } := by
  rw [onEnterScript]
  split
  · next suspended =>
    exact { idle := nofun, holds := fun _ => h.holds (by simp [suspended])
            running := fun _ => ⟨rfl, (h.suspended suspended).2⟩, suspended := nofun }
  · next other =>
    exact { idle := h.idle, holds := h.holds, running := fun r => ⟨rfl, (h.running r).2⟩
            suspended := fun r => absurd r other }

theorem RunnerForm.leaveScript {x : Service} (h : RunnerForm x) (b : Bool) :
    RunnerForm { x with sel := { x.sel with mode := .live, awaitsFrame := b },
                        runner := onLeaveScript x.runner } := by
  rw [onLeaveScript]
  split
  · next running =>
    exact { idle := nofun, holds := fun _ => h.holds (by simp [running])
            running := nofun, suspended := fun _ => ⟨rfl, (h.running running).2⟩ }
  · next other =>
    exact { idle := h.idle, holds := h.holds, running := fun r => absurd r other
            suspended := fun r => ⟨rfl, (h.suspended r).2⟩ }

theorem runs_setMode (v : ServiceIx) (m : Mode) (h : RunnersFormed s) : RunnersFormed (setMode v m s) := by
  simp only [setMode]
  split
  · exact h
  split
  · rw [State.updRunner, State.updSel, updService_updService]
    exact RunnersFormed.set (fun u _ => h u) (h v).enterScript
  · rw [State.updRunner, State.updSel, updService_updService]
    exact RunnersFormed.set (fun u _ => h u) ((h v).leaveScript _)

theorem runs_idle {v : ServiceIx} (others : ∀ u, u ≠ v → RunnerForm (s.service u)) :
    RunnersFormed (s.updRunner v idleRunner) := RunnersFormed.set others (runnerForm_idle _)

theorem services_noteEnd (v : ServiceIx) (k : Nat) (st : Story) (s : State) :
    (noteEnd v k st s).services = s.services := by
  rw [noteEnd]; split <;> rfl

/-- Whatever form the runner had, the end action gives it one. -/
theorem runs_endStory {v : ServiceIx} (k : Nat) (st : Story)
    (others : ∀ u, u ≠ v → RunnerForm (s.service u)) : RunnersFormed (endStory v k st s) := by
  have noted : ∀ u, u ≠ v → RunnerForm ((noteEnd v k st s).service u) := fun u other => by
    rw [State.service, services_noteEnd]; exact others u other
  rw [endStory]
  split
  · exact runs_setMode v _ (runs_idle noted)
  · exact runs_idle noted
  · split
    · rw [chainTo]
      repeat' split
      · exact RunnersFormed.set noted (runnerForm_arm _ _ _)
      all_goals exact (runs_idle others).congr rfl
    · exact runs_idle others

/-- Issuing keeps the form, in SCRIPT mode and with a runner that holds a story. -/
theorem runs_issueCue {v : ServiceIx} {a : Frame} (e : issueCue v a s = some t)
    (script : (s.service v).sel.mode = .script) (h : RunnersFormed s) : RunnersFormed t := by
  simp only [issueCue] at e
  split at e
  · simp at e
  next k st c atPointer =>
  have story : (s.service v).runner.story.isSome := by
    simp only [cueAtPointer] at atPointer
    split at atPointer
    · simp at atPointer
    · next holds => rw [holds]; rfl
  split at e
  next =>
    generalize targetFrame s v _ none = f at e
    generalize offered : (offer v _ none s).2 = u at e
    have formed : RunnersFormed u := offered ▸ runs_offer _ _ _ h
    have same : u.service v = { s.service v with sched := (u.service v).sched } := by
      rw [← offered, offer]; split <;> simp
    have others : ∀ w, w ≠ v → RunnerForm ((u.updRunner v (afterIssue st c.interval f)).service w) := by
      intro w other
      rw [service_updRunner, if_neg other]; exact formed w
    split at e
    · obtain rfl := Option.some.inj e
      exact runs_endStory k st others
    · next more =>
      obtain rfl := Option.some.inj e
      rw [service_updRunner_same] at more
      refine RunnersFormed.set (fun w _ => formed w) ?_
      rw [same]
      rw [same] at more
      exact { idle := nofun, holds := fun _ => story
              running := fun _ => ⟨script, Nat.one_le_iff_ne_zero.mpr more⟩, suspended := nofun }
  next => simp at e

theorem runs_cueRefused (v : ServiceIx) (h : RunnersFormed s) : RunnersFormed (cueRefused v s) := by
  rw [cueRefused]
  split
  · exact h
  · exact h.updSched

/-- Counts of a runner are no part of its form. -/
theorem RunnerForm.counted {x : Service} (h : RunnerForm x) (i g l d : Count) :
    RunnerForm { x with runner := { x.runner with issued := i, ignored := g, lost := l, deferrals := d } } where
  idle e := { h.idle e with }
  holds := h.holds
  running := h.running
  suspended := h.suspended

theorem takesTrigger_script {x : Service} (h : takesTrigger x = true) : x.sel.mode = .script := by
  simp only [takesTrigger, Bool.and_eq_true, decide_eq_true_eq] at h
  exact h.2

theorem runs_trigger (v : ServiceIx) (a : Frame) (h : RunnersFormed s) : RunnersFormed (trigger v a s) := by
  simp only [trigger]
  repeat' split
  · next takes _ _ e => exact runs_issueCue e (takesTrigger_script takes) h
  · have refused := runs_cueRefused v h
    exact RunnersFormed.set (fun w _ => refused w) ((refused v).counted _ _ _ _)
  · exact RunnersFormed.set (fun w _ => h w) ((h v).counted _ _ _ _)

theorem runs_checkTimed (v : ServiceIx) (h : RunnersFormed s) : RunnersFormed (checkTimed v s) := by
  simp only [checkTimed]
  split
  · exact h
  split
  · next due =>
    simp only [Bool.and_eq_true, decide_eq_true_eq] at due
    obtain ⟨⟨⟨running, -⟩, -⟩, -⟩ := due
    split
    · next e => exact runs_issueCue e ((h v).running running).1 h
    · have refused := runs_cueRefused v h
      exact RunnersFormed.set (fun w _ => refused w) ((refused v).counted _ _ _ _)
  · exact h

theorem runs_drainCheck (v : ServiceIx) (h : RunnersFormed s) : RunnersFormed (drainCheck v s) := by
  simp only [drainCheck]
  repeat' split
  · exact (runs_idle fun u _ => h u).congr rfl
  all_goals exact h

theorem runs_startDrain {v : ServiceIx} (k : Nat) (story : (s.service v).runner.story = some k)
    (h : RunnersFormed s) : RunnersFormed (startDrain v k s) := by
  have draining : RunnersFormed (s.updRunner v fun r => { r with phase := .draining, nextBase := none }) :=
    RunnersFormed.set (fun w _ => h w)
      { idle := nofun, holds := fun _ => by simp [story], running := nofun, suspended := nofun }
  rw [startDrain]
  refine runs_drainCheck v (RunnersFormed.updService ?_ rfl rfl)
  rw [removeCues]
  split
  · exact draining
  · exact runs_departed v _ draining.updSched

end

theorem parts_runs : KeepsParts RunnersFormed where
  congr h e _ := h.congr e
  service h runner mode := h.updService runner mode
  builds b h := h.builds b
  raise n h := h.raise n
  trigger v a h := runs_trigger v a h
  timed v h := runs_checkTimed v h
  mode v m h := runs_setMode v m h
  drain v h := runs_drainCheck v h

theorem keepsCarriage_runs : KeepsCarriage RunnersFormed where
  out _ h := h.congr rfl
  assemble {s} h := by
    have applied : RunnersFormed (applyMap s) := h.congr (by rw [applyMap_eq])
    exact applied.of_runner_mode (buildsAny_assemble s).runner (buildsAny_assemble s).mode
  reportGone h := h.congr rfl

theorem RunnersFormed.mapServices {s : State} {f : Service → Service} (h : RunnersFormed s)
    (hf : ∀ x, RunnerForm x → RunnerForm (f x)) : RunnersFormed { s with services := s.services.map f } :=
  fun v => by
    show RunnerForm ((s.services.map f).get v)
    rw [Quad.get_map]; exact hf _ (h v)

theorem RunnerForm.heldService {x : Service} (h : RunnerForm x) (pfn : Frame) :
    RunnerForm (heldService pfn x) where
  idle e := by
    have idle := h.idle e
    exact { story := idle.story, pointer := idle.pointer, remaining := idle.remaining
            lastCueT := by simp [Machine.heldService, idle.lastCueT]
            nextBase := by simp [Machine.heldService, idle.nextBase]
            timingHeld := idle.timingHeld }
  holds := h.holds
  running := h.running
  suspended := h.suspended

theorem keepsFrames_runs : KeepsFrames RunnersFormed where
  begin_ levels h := by
    refine beginFrame_keeps levels (fun h => ?_) (fun {s} h => ?_) (fun _ _ h => h.congr rfl)
      (fun h => h.congr rfl) h
    · exact (h.mapServices (f := frameCame) fun _ h => { h with }).congr rfl
    · exact (h.mapServices fun _ h => h.heldService s.pfn).congr rfl
  port _ _ _ _ h := h.congr rfl
  raise _ h := h.congr rfl

theorem runnerForm_restarted (x : Service) : RunnerForm (restartedService x) where
  idle _ := by constructor <;> rfl
  holds h := absurd rfl h
  running h := nomatch h
  suspended h := nomatch h

theorem keepsRequests_runs : KeepsRequests RunnersFormed where
  out _ h := h.congr rfl
  answer _ _ h := h.congr rfl
  softReset _ h := (h.mapServices (f := fun x => softCounts (restartedService x)) fun x _ =>
    { runnerForm_restarted x with idle := fun _ => by constructor <;> rfl }).congr rfl
  setDevice _ h := h.congr rfl
  loadLine _ h := h.updLine
  loadService _ _ _ h := h.updService rfl rfl
  close v h := h.builds (builds_closeOpen v _ _)
  restart v h := (RunnersFormed.set (v := v) (fun u _ => h u) (runnerForm_restarted _)).congr rfl
  slotMap _ h := h.congr rfl
  story _ _ h := h.congr rfl
  cue _ _ _ h := h.congr rfl
  gpi _ h := h.congr rfl
  arm _ _ _ h := RunnersFormed.set (fun u _ => h u) (runnerForm_arm _ _ _)
  issue takes e h := runs_issueCue e (takesTrigger_script takes) h
  refused v h := runs_cueRefused v h
  disarm v h := runs_idle fun u _ => h u
  drain story h := runs_startDrain _ story h
  mode v m h := runs_setMode v m h
  switch v c h := parts_switchLine parts_runs v c h
  clear v h := h.builds (builds_clearService v _)
  noticed h := h.congr rfl
  figuresRead _ h := h.updSched

/-- Settles O7: every change of a runner or of its service's mode gives a form again. -/
theorem runnersKeepTheirForm : Obligations.RunnersKeepTheirForm := fun _ _ h e =>
  step_keeps (fun _ h => h.congr rfl) parts_runs.keepsWork parts_runs.keepsWire keepsCarriage_runs keepsRequests_runs
    keepsFrames_runs (fun reset h e => by
      obtain ⟨low, rfl⟩ | rfl := exec_reset_cases reset e
      · exact RunnersFormed.congr (s := State.reset) (fun v => by rw [service_reset]; exact runnerForm_reset) rfl
      · exact h.congr rfl) h e

end Sys2Proof.Machine
end

section
/-! Frame starts, internal frames and carriage points (O13 to O17). -/

namespace Sys2Proof.Machine

/-! ### Past frame numbers (R3) -/

theorem heldPast_of_le {pfn x : Frame} (h : frameDiff x pfn ≤ 524288) : heldPast pfn x = x := by
  rw [heldPast, if_neg (by rw [show Config.pastLimit = 524288 from rfl]; push_cast; omega)]

theorem heldPast_of_gt {pfn x : Frame} (h : 524288 < frameDiff x pfn) : heldPast pfn x = pfn - 524288#32 := by
  rw [heldPast, if_pos (by rw [show Config.pastLimit = 524288 from rfl]; push_cast; omega)]
  rw [moved, show Config.pastLimit = 524288 from rfl, BitVec.ofInt_neg, BitVec.ofInt_natCast]
  bv_omega

theorem frameDiff_sub_limit (pfn : Frame) : frameDiff (pfn - 524288#32) pfn = 524288 := by
  rw [frameDiff, show pfn - (pfn - 524288#32) = 524288#32 by bv_omega]; rfl

/-- Settles O13: the hold of one frame number by its distance, and the held fields read off the definitions. -/
theorem pastFramesHeld : Obligations.PastFramesHeld := by
  refine ⟨fun pfn x => ⟨heldPast_of_le, fun far => ?_, ?_⟩, fun pfn => ⟨fun x => ?_, fun x => ?_, ?_, ?_⟩⟩
  · rw [heldPast_of_gt far]; bv_omega
  · obtain near | far := le_or_gt (frameDiff x pfn) 524288
    · rwa [heldPast_of_le near]
    · rw [heldPast_of_gt far, frameDiff_sub_limit]
  · rfl
  · obtain ⟨record, sel, onsets, runner, sched, cb, om⟩ := x
    obtain ⟨_, _, _, _, _, _, _, _, timer, _, _, _, _⟩ := cb
    cases timer <;> rfl
  · exact fun c => rfl
  · intro r
    obtain ⟨-, -, -, -⟩ | n := r
    · rfl
    · cases n <;> rfl

/-! ### A frame start -/

theorem forInputs_updInput (f : InputIx → Input → Input) (s : State) :
    ∃ is, forInputs (fun i t => t.updInput i (f i)) s = { s with inputs := is } ∧
      ∀ i, is.get i = f i (s.input i) := by
  refine ⟨(forInputs (fun i t => t.updInput i (f i)) s).inputs, ?_, fun i => ?_⟩
  · refine forInputs_keeps (P := fun t => t = { s with inputs := t.inputs }) (fun i t h => ?_) rfl
    rw [h]; rfl
  · show (forInputs (fun i t => t.updInput i (f i)) s).input i = _
    fin_cases i <;> simp [forInputs, eights, input_updInput]

/-- R1, R2, R3, R63, R82: what a frame start does, field by field. -/
theorem beginFrame_eq (levels : BitVec 8) (s : State) :
    ∃ is, beginFrame levels s = { s with
        pfn := s.pfn + 1, inputs := is, lines := s.lines.map (heldLine (s.pfn + 1))
        services := (s.services.map frameCame).map (heldService (s.pfn + 1))
        ci := heldControl (s.pfn + 1) s.ci, due := frameStartWork, out := [] } ∧
      ∀ i, is.get i = sample (levels.getLsbD i.val) (s.input i) := by
  obtain ⟨is, sampled, each⟩ := forInputs_updInput (fun i => sample (levels.getLsbD i.val))
    (holdPast { s with pfn := s.pfn + 1, services := s.services.map frameCame })
  refine ⟨is, ?_, each⟩
  rw [beginFrame, sampled]
  rfl

/-- What a frame start gives, as the statements about frames say it. -/
structure Begun (levels : BitVec 8) (s b : State) : Prop where
  pfn : b.pfn = s.pfn + 1
  due : b.due = frameStartWork
  out : b.out = []
  input : ∀ i, b.input i = sample (levels.getLsbD i.val) (s.input i)
  line : ∀ l, b.line l = heldLine b.pfn (s.line l)
  service : ∀ v, b.service v = heldService b.pfn
    { s.service v with sel := { (s.service v).sel with awaitsFrame := false } }
  ci : b.ci = heldControl b.pfn s.ci
  rest : b = { s with pfn := b.pfn, due := b.due, out := b.out, inputs := b.inputs, lines := b.lines
                      services := b.services, ci := b.ci }

theorem begun_beginFrame (levels : BitVec 8) (s : State) : Begun levels s (beginFrame levels s) := by
  obtain ⟨is, e, sampled⟩ := beginFrame_eq levels s
  rw [e]
  exact {
    pfn := rfl, due := rfl, out := rfl, ci := rfl, rest := rfl
    input := sampled
    line := fun l => Quad.get_map ..
    service := fun v => by
      refine (Quad.get_map ..).trans ?_
      rw [Quad.get_map]; rfl }

theorem finishWork_of_done {s : State} (h : WorkDone s) : finishWork s = s := finishWork_of_workDone h

theorem exec_frameStart {levels : BitVec 8} {s : State} (awake : s.resetLow = false) :
    exec (.frameStart levels) s = .next (realFrame levels s) :=
  congrArg Host.Outcome.next (whenAwake_awake _ awake)

/-- What `FrameStartTaken` says of a state, as far as it does not rest on the reference state. -/
structure Started (levels : BitVec 8) (s t : State) : Prop where
  ref : t.ref = .locked
  timer : t.timer = .running 3 s.device.fps
  due : t.due = frameStartWork
  out : t.out = []
  input : ∀ i, t.input i = sample (levels.getLsbD i.val) (s.input i)
  line : ∀ l, t.line l = heldLine t.pfn (s.line l)
  service : ∀ v, t.service v = heldService t.pfn
    { s.service v with sel := { (s.service v).sel with awaitsFrame := false } }
  rest : t = { s with pfn := t.pfn, ref := t.ref, timer := t.timer, due := t.due, out := t.out
                      inputs := t.inputs, lines := t.lines, services := t.services, ci := t.ci }

theorem started_lockTimer {levels : BitVec 8} {s : State} {p : Frame} {b : State}
    (begun : Begun levels { s with pfn := p } b) (c : Control) :
    Started levels s { lockTimer b with ci := c } where
  ref := rfl
  timer := by
    show FrameTimer.running 3 b.device.fps = _
    rw [begun.rest]
  due := begun.due
  out := begun.out
  input := begun.input
  line := begun.line
  service := begun.service
  rest := by
    have rest := begun.rest
    dsimp only [lockTimer]
    rw [rest]

theorem realFrame_of_seeking {levels : BitVec 8} {s : State} (h : s.ref = .seeking) :
    realFrame levels s = lockTimer (beginFrame levels { s with pfn := 0 }) := by
  rw [realFrame.eq_def]
  split
  · rfl
  all_goals next other => exact absurd (h.symm.trans other) (by decide)

theorem realFrame_of_locked {levels : BitVec 8} {s : State} (h : s.ref = .locked) :
    realFrame levels s = lockTimer (beginFrame levels (finishWork s)) := by
  rw [realFrame.eq_def]
  split
  case h_2 => rfl
  all_goals next other => exact absurd (h.symm.trans other) (by decide)

theorem realFrame_of_freewheel {levels : BitVec 8} {s : State} (h : s.ref = .freewheel) :
    realFrame levels s = raise
      (.referenceRestored (beginFrame levels (finishWork s)).pfn (beginFrame levels (finishWork s)).internalFrames)
      (lockTimer (beginFrame levels (finishWork s))) := by
  rw [realFrame.eq_def]
  split
  case h_3 => rfl
  all_goals next other => exact absurd (h.symm.trans other) (by decide)

/-- Settles O14: in each reference state the frame start is `beginFrame`, with the port as R8, R9 and R11
set it. -/
theorem frameStartTaken : Obligations.FrameStartTaken := by
  intro levels s awake done
  refine ⟨_, exec_frameStart awake, ?_⟩
  cases ref : s.ref with
  | seeking =>
    have begun := begun_beginFrame levels { s with pfn := 0 }
    rw [realFrame_of_seeking ref]
    generalize beginFrame levels { s with pfn := 0 } = b at begun
    have started := started_lockTimer begun b.ci
    exact ⟨begun.pfn, started.ref, started.timer, started.due, started.out, started.input, started.line,
      started.service, begun.ci, started.rest⟩
  | locked =>
    have begun := begun_beginFrame levels s
    rw [realFrame_of_locked ref, finishWork_of_done done]
    generalize beginFrame levels s = b at begun
    have started := started_lockTimer (p := s.pfn) begun b.ci
    exact ⟨begun.pfn, started.ref, started.timer, started.due, started.out, started.input, started.line,
      started.service, begun.ci, started.rest⟩
  | freewheel =>
    have begun := begun_beginFrame levels s
    rw [realFrame_of_freewheel ref, finishWork_of_done done]
    generalize beginFrame levels s = b at begun
    have frames : b.internalFrames = s.internalFrames := by rw [begun.rest]
    have started := started_lockTimer (p := s.pfn) begun
      (joinNotice (.referenceRestored b.pfn b.internalFrames) b.ci)
    have ci : joinNotice (.referenceRestored b.pfn b.internalFrames) b.ci =
        joinNotice (.referenceRestored (s.pfn + 1) s.internalFrames) (heldControl b.pfn s.ci) := by
      rw [frames, begun.ci, begun.pfn]
    exact ⟨begun.pfn, started.ref, started.timer, started.due, started.out, started.input, started.line,
      started.service, ci, started.rest⟩

end Sys2Proof.Machine
end

section
/-! Internal frames and carriage points (O15 to O17). -/

namespace Sys2Proof.Machine

/-! ### The reports that wait (R156) -/

/-- These reports stand at the head of the queue. -/
def Tells (rs : List Report) (s : State) : Prop := rs <+: s.ci.reports

section

variable {rs : List Report} {s t : State}

theorem Tells.congr (h : Tells rs s) (e : t.ci = s.ci) : Tells rs t := by rw [Tells, e]; exact h

theorem Tells.raise (n : Notice) (h : Tells rs s) : Tells rs (raise n s) := by
  show rs <+: (joinNotice n s.ci).reports
  rw [joinNotice]
  split
  · exact h.trans (List.prefix_append _ _)
  · exact h

theorem ci_setMode (v : ServiceIx) (m : Mode) (s : State) : (setMode v m s).ci = s.ci := by
  simp only [setMode]
  repeat' split
  all_goals rfl

theorem Tells.noteEnd (v : ServiceIx) (k : Nat) (st : Story) (h : Tells rs s) : Tells rs (noteEnd v k st s) := by
  rw [Machine.noteEnd]
  split
  · exact h.raise _
  · exact h

theorem Tells.endStory (v : ServiceIx) (k : Nat) (st : Story) (h : Tells rs s) :
    Tells rs (endStory v k st s) := by
  rw [Machine.endStory]
  split
  · exact (h.noteEnd v k st).congr (ci_setMode ..)
  · exact (h.noteEnd v k st).congr rfl
  · split
    · rw [chainTo]
      repeat' split
      · exact (h.noteEnd v k st).congr rfl
      all_goals exact (h.congr rfl).raise _
    · exact h.congr rfl

theorem ci_offer (v : ServiceIx) (b : EntryBody) (f : Option Frame) (s : State) :
    (offer v b f s).2.ci = s.ci := by rw [offer_frame]

theorem Tells.issueCue {v : ServiceIx} {a : Frame} (e : issueCue v a s = some t) (h : Tells rs s) :
    Tells rs t := by
  simp only [Machine.issueCue] at e
  split at e
  · simp at e
  split at e
  · generalize targetFrame s v _ none = f at e
    generalize offered : (offer v _ none s).2 = u at e
    have told : Tells rs u := h.congr (offered ▸ ci_offer ..)
    split at e
    · obtain rfl := Option.some.inj e
      exact Tells.endStory _ _ _ (told.congr rfl)
    · obtain rfl := Option.some.inj e
      exact told.congr rfl
  · simp at e

theorem ci_cueRefused (v : ServiceIx) (s : State) : (cueRefused v s).ci = s.ci := by
  rw [cueRefused]; split <;> rfl

theorem parts_tells : KeepsParts (Tells rs) where
  congr h _ e := h.congr e
  service h _ _ := h.congr rfl
  builds b h := h.congr b.ci
  raise n h := h.raise n
  trigger v a h := by
    simp only [trigger]
    repeat' split
    · next e => exact h.issueCue e
    · exact h.congr (ci_cueRefused ..)
    · exact h.congr rfl
  timed v h := by
    simp only [checkTimed]
    repeat' split
    · exact h
    · next e => exact h.issueCue e
    · exact h.congr (ci_cueRefused ..)
    · exact h
  mode v m h := h.congr (ci_setMode ..)
  drain v h := by
    simp only [drainCheck]
    repeat' split
    · exact (h.congr rfl).raise _
    all_goals exact h

theorem ci_assemble (s : State) : (assemble s).state.ci = s.ci := by
  rw [(buildsAny_assemble s).ci, applyMap_eq]

/-- An internal carriage point leaves the reports that wait. -/
theorem Tells.internalCarriage (d : BitVec 4) (h : Tells rs s) : Tells rs (internalCarriage d s) := by
  have k := parts_tells (rs := rs) |>.keepsWork
  exact k.finishWork (k.agenda _ (k.appendAll ((k.drainsFirst d h).congr (ci_assemble _))))

/-- An internal frame holds the frame numbers of the reports that wait, and leaves them in their places. -/
theorem Tells.internalFrame (levels : BitVec 8) (f : InternalFrame) (h : Tells rs s) :
    Tells (rs.map (heldReport (s.pfn + 1))) (internalFrame levels f s) := by
  have k := parts_tells (rs := rs.map (heldReport (s.pfn + 1))) |>.keepsWork
  have begun := begun_beginFrame levels s
  have held : Tells (rs.map (heldReport (s.pfn + 1))) (beginFrame levels s) := by
    rw [Tells, begun.ci, begun.pfn]
    exact List.IsPrefix.map _ h
  rw [Machine.internalFrame]
  exact Tells.internalCarriage _ (k.finishWork (k.runAll _ (held.congr rfl)))

end

/-! ### Internal frames -/

theorem exec_frameTimerExpiry {levels : BitVec 8} {f : InternalFrame} {s : State} (awake : s.resetLow = false)
    (free : s.ref = .freewheel) (done : WorkDone s) : exec (.frameTimerExpiry levels f) s =
      .next (freeTimer (internalFrame levels f s)) := by
  refine congrArg Host.Outcome.next ((whenAwake_awake _ awake).trans ?_)
  rw [if_pos free, finishWork_of_done done]

/-- What the settings say of a state after internal frames. -/
structure AfterFrames (s t : State) (n : BitVec 32) : Prop where
  pfn : t.pfn = s.pfn + n
  ref : t.ref = s.ref
  count : t.internalFrames = s.internalFrames + n
  due : t.due = []
  out : t.out = []
  device : t.device = s.device
  stories : t.stories = s.stories
  cues : t.cues = s.cues
  slotMap : t.slotMap = s.pendingMap.getD s.slotMap
  pendingMap : t.pendingMap = none

theorem afterFrames_internalFrame (levels : BitVec 8) (f : InternalFrame) (s : State) :
    AfterFrames s (internalFrame levels f s) 1 := by
  have e := settings_internalFrame levels f s
  generalize internalFrame levels f s = t at e ⊢
  exact {
    pfn := congrArg Settings.pfn e, ref := congrArg Settings.ref e
    count := congrArg Settings.internalFrames e, due := congrArg Settings.due e, out := congrArg Settings.out e
    device := congrArg Settings.device e, stories := congrArg Settings.stories e
    cues := congrArg Settings.cues e, slotMap := congrArg Settings.slotMap e
    pendingMap := congrArg Settings.pendingMap e }

theorem AfterFrames.then {s t : State} {n : BitVec 32} (h : AfterFrames s t n) (levels : BitVec 8)
    (f : InternalFrame) : AfterFrames s (internalFrame levels f t) (n + 1) := by
  have next := afterFrames_internalFrame levels f t
  generalize internalFrame levels f t = u at next ⊢
  exact {
    pfn := by rw [next.pfn, h.pfn, BitVec.add_assoc], ref := next.ref.trans h.ref
    count := by rw [next.count, h.count, BitVec.add_assoc], due := next.due, out := next.out
    device := next.device.trans h.device, stories := next.stories.trans h.stories
    cues := next.cues.trans h.cues
    slotMap := by rw [next.slotMap, h.pendingMap, h.slotMap]; rfl
    pendingMap := next.pendingMap }

/-- Settles O15: the frame start is `beginFrame`; the rest is the definition of an internal frame, and its
settings. -/
theorem internalFrameTaken : Obligations.InternalFrameTaken := by
  intro levels f s
  constructor
  · obtain ⟨c, started⟩ : ∃ c, beginFrame levels s = c := ⟨_, rfl⟩
    have begun : Begun levels s c := started ▸ begun_beginFrame levels s
    have frames : c.internalFrames = s.internalFrames := by rw [begun.rest]
    refine ⟨{ c with internalFrames := s.internalFrames + 1 }, begun.pfn, rfl, begun.due, begun.out,
      begun.input, begun.line, begun.service, begun.ci, ?_, ?_⟩
    · dsimp only
      rw [begun.rest]
    · rw [internalFrame, started, frames]
      rfl
  · intro awake free done
    have after := afterFrames_internalFrame levels f s
    have told : Tells (s.ci.reports.map (heldReport (s.pfn + 1))) (internalFrame levels f s) :=
      Tells.internalFrame levels f (List.prefix_refl _)
    have run := exec_frameTimerExpiry (levels := levels) (f := f) awake free done
    have device := after.device
    generalize internalFrame levels f s = t at after told device run
    refine ⟨_, run, ?_⟩
    refine ⟨?_, after.pfn, after.ref.trans free, after.count, after.due, after.out, after.slotMap,
      after.pendingMap, told, after.device, after.stories, after.cues⟩
    rw [freeTimer, ← device]

theorem exec_lossThresholdExpiry {levels : BitVec 8} {f1 f2 f3 : InternalFrame} {s : State}
    (awake : s.resetLow = false) (locked : s.ref = .locked) (done : WorkDone s) :
    exec (.lossThresholdExpiry levels f1 f2 f3) s = .next (freeTimer (internalFrame levels f3
      (internalFrame levels f2 (internalFrame levels f1 { s with
        ref := .freewheel, internalFrames := 0, ci := joinNotice (.referenceLost s.pfn) s.ci })))) := by
  refine congrArg Host.Outcome.next ((whenAwake_awake _ awake).trans ?_)
  rw [if_pos locked, loseReference, finishWork_of_done done]
  rfl

/-- A frame number of the present frame is held at none of the next three. -/
theorem heldPast_near (pfn n : Frame) (near : n.toNat ≤ 3) : heldPast (pfn + n) pfn = pfn := by
  refine heldPast_of_le ?_
  rw [frameDiff, show pfn + n - pfn = n by bv_omega, BitVec.toInt_eq_toNat_of_lt (by omega)]
  omega

/-- Settles O16: three internal frames, one after another, from the state with the notice queued. -/
theorem referenceLost : Obligations.ReferenceLost := by
  intro levels f1 f2 f3 s awake locked done
  have run := exec_lossThresholdExpiry (levels := levels) (f1 := f1) (f2 := f2) (f3 := f3) awake locked done
  obtain ⟨s1, hs1⟩ : ∃ s1 : State, s1 = { s with
      ref := .freewheel, internalFrames := 0, ci := joinNotice (.referenceLost s.pfn) s.ci } := ⟨_, rfl⟩
  rw [← hs1] at run ⊢
  have first := afterFrames_internalFrame levels f1 s1
  have second := first.then levels f2
  have third := second.then levels f3
  have pfn : s1.pfn = s.pfn := by rw [hs1]
  have told : s.ci.reports.length < 16 →
      Tells (((s.ci.reports.map (heldReport (s.pfn + 1))).map (heldReport (s.pfn + 2))).map
        (heldReport (s.pfn + 3)) ++ [.notice (.referenceLost s.pfn)])
        (internalFrame levels f3 (internalFrame levels f2 (internalFrame levels f1 s1))) := by
    intro room
    have joined : Tells (s.ci.reports ++ [.notice (.referenceLost s.pfn)]) s1 := by
      rw [Tells, hs1]
      show _ <+: (joinNotice _ _).reports
      rw [joinNotice, if_pos (show _ < Config.reportCapacity from room)]
    have told := ((joined.internalFrame levels f1).internalFrame levels f2).internalFrame levels f3
    have two : (internalFrame levels f1 s1).pfn + 1 = s.pfn + 2 := by
      rw [first.pfn, pfn, BitVec.add_assoc]; rfl
    have three : (internalFrame levels f2 (internalFrame levels f1 s1)).pfn + 1 = s.pfn + 3 := by
      rw [second.pfn, pfn, BitVec.add_assoc]; rfl
    rw [two, three, pfn] at told
    rw [List.map_append, List.map_append, List.map_append, List.map_singleton, List.map_singleton,
      List.map_singleton] at told
    have notice (n : BitVec 32) (near : n.toNat ≤ 3) : heldReport (s.pfn + n) (.notice (.referenceLost s.pfn)) =
        .notice (.referenceLost s.pfn) := by
      rw [heldReport, heldNotice, heldPast_near _ _ near]
    rwa [notice 1 (by decide), notice 2 (by decide), notice 3 (by decide)] at told
  have device := third.device
  generalize internalFrame levels f3 (internalFrame levels f2 (internalFrame levels f1 s1)) = u at *
  refine ⟨_, run, ?_⟩
  refine ⟨⟨u, rfl, ?_⟩, ?_, third.ref.trans ?_, third.count.trans ?_, third.due, third.out, told,
    third.device.trans ?_, third.stories.trans ?_, third.cues.trans ?_⟩
  · rw [freeTimer, device, hs1]
  · show u.pfn = _
    rw [third.pfn, pfn]; rfl
  all_goals rw [hs1]
  rfl

/-! ### Carriage points -/

theorem exec_carriagePoint {d : BitVec 4} {s : State} (ready : Ready s) :
    exec (.carriagePoint d) s = .next (realCarriage d s) := by
  rw [exec, execCarriagePoint, if_pos ready.takes, finishWork_of_done ready.done]

theorem placeReport_eq (s : State) : placeReport s = { s with
    out := s.out ++ (match s.ci.reports with
      | [] => []
      | r :: _ => [reportPacket s.device.address r])
    ci := { s.ci with reports := s.ci.reports.tail } } := by
  rw [placeReport.eq_def]
  cases reports : s.ci.reports with
  | nil =>
    have ci : ({ s.ci with reports := [] } : Control) = s.ci := by rw [← reports]
    simp [ci]
  | cons r rs => rfl

/-- R14: the state of a real carriage point when its packets have been placed. -/
def carried (d : BitVec 4) (s : State) : State :=
  let s0 := drainsFirst d s
  let a := assemble s0
  { a.state with
    out := s.out ++ captionPacket s.pfn a :: (match s0.ci.reports with
      | [] => []
      | r :: _ => [reportPacket s.device.address r])
    ci := { s0.ci with reports := s0.ci.reports.tail } }

/-- The map has taken effect, and the packets have gone out. -/
theorem settings_carried (d : BitVec 4) (s : State) : (carried d s).settings = { s.settings with
    slotMap := s.pendingMap.getD s.slotMap, pendingMap := none, out := (carried d s).out } := by
  have assembled := settings_assemble (drainsFirst d s)
  rw [pendingMap_eq_settings (drainsFirst d s), slotMap_eq_settings (drainsFirst d s),
    settings_drainsFirst] at assembled
  have placed : (carried d s).settings =
      { (assemble (drainsFirst d s)).state.settings with out := (carried d s).out } := rfl
  rw [placed, assembled]
  rfl

theorem withPackets {s : State} {o o' : List (List Byte)} {c c' : Control} (out : o = o') (ci : c = c') :
    ({ s with out := o, ci := c } : State) = { s with out := o', ci := c' } := by rw [out, ci]

theorem placeReport_assembled (d : BitVec 4) (s : State) :
    placeReport { (assemble (drainsFirst d s)).state with
      out := (assemble (drainsFirst d s)).state.out ++ [captionPacket s.pfn (assemble (drainsFirst d s))] } =
    carried d s := by
  have settings := settings_assemble (drainsFirst d s)
  rw [pendingMap_eq_settings (drainsFirst d s), slotMap_eq_settings (drainsFirst d s),
    settings_drainsFirst] at settings
  have ci := ci_assemble (drainsFirst d s)
  rw [carried, placeReport_eq]
  generalize assemble (drainsFirst d s) = a at settings ci ⊢
  have out : a.state.out = s.out := congrArg Settings.out settings
  have device : a.state.device = s.device := congrArg Settings.device settings
  refine withPackets ?_ ?_
  · dsimp only
    rw [ci, out, device, List.append_assoc, List.singleton_append]
  · dsimp only
    rw [ci]

theorem settings_appendAll_carried (d : BitVec 4) (s : State) : (appendAll (carried d s)).settings =
    { s.settings with
      slotMap := s.pendingMap.getD s.slotMap, pendingMap := none, out := (carried d s).out } :=
  (settings_appendAll _).trans (settings_carried d s)

/-- R14: the packets of a carriage point, and then the appends of the builders. -/
theorem realCarriage_eq (d : BitVec 4) (s : State) :
    realCarriage d s = { appendAll (carried d s) with due := s.due ++ drainsAfter d } := by
  have due := congrArg Settings.due (settings_appendAll_carried d s)
  rw [realCarriage, placeReport_assembled]
  generalize appendAll (carried d s) = t at due ⊢
  have due : t.due = s.due := due
  rw [due]

theorem codeByte_eq {code : ReplyCode} {n : Nat}
    (h : (code, n) ∈ [(ReplyCode.ok, 0), (.clamped, 1), (.badIndex, 2), (.badValue, 3), (.inUse, 4),
      (.busy, 5), (.incomplete, 6), (.notArmed, 7), (.notScript, 8), (.malformed, 9), (.unknown, 10)]) :
    codeByte code = BitVec.ofNat 8 n := by
  simp only [List.mem_cons, Prod.mk.injEq, List.not_mem_nil, or_false] at h
  rcases h with h | h | h | h | h | h | h | h | h | h | h <;> obtain ⟨rfl, rfl⟩ := h <;> rfl

theorem endActionByte_eq {act : EndAction} {n : Nat}
    (h : (act, n) ∈ [(EndAction.live, 0), (.hold, 1), (.next, 2)]) : endActionByte act = BitVec.ofNat 8 n := by
  simp only [List.mem_cons, Prod.mk.injEq, List.not_mem_nil, or_false] at h
  rcases h with h | h | h <;> obtain ⟨rfl, rfl⟩ := h <;> rfl

/-- Settles O17: the carriage point is the drain checks, the assembly, the two packets and the appends; the
report packet is read off its definition. -/
theorem carriagePointTaken : Obligations.CarriagePointTaken := by
  constructor
  · intro d s ready s0 a u
    have run := exec_carriagePoint (d := d) ready
    rw [realCarriage_eq, ready.done] at run
    have settings := settings_appendAll_carried d s
    have told : Tells s0.ci.reports.tail (appendAll (carried d s)) :=
      parts_tells.keepsWork.appendAll (show Tells _ (carried d s) from List.prefix_refl _)
    show ∃ t, exec (.carriagePoint d) s = .next t ∧
      t = { appendAll (carried d s) with due := drainsAfter d } ∧ t.out = (carried d s).out ∧
      s0.ci.reports.tail <+: t.ci.reports ∧ _
    generalize appendAll (carried d s) = t at run settings told ⊢
    exact ⟨_, run, rfl, congrArg Settings.out settings, told, congrArg Settings.slotMap settings,
      congrArg Settings.pendingMap settings, congrArg Settings.pfn settings,
      (congrArg Settings.ref settings).trans ready.locked, congrArg Settings.timer settings,
      congrArg Settings.device settings, congrArg Settings.stories settings, congrArg Settings.cues settings⟩
  · intro address one two four sent packet
    refine ⟨fun tag kind code n body h => ?_, fun _ _ _ _ _ _ => rfl, fun _ _ _ => rfl,
      fun v k act n f failed h => ?_, fun _ _ _ => rfl, fun _ _ => rfl, fun _ => rfl, fun _ _ => rfl⟩
    · rw [reportPacket, codeByte_eq h]; rfl
    · have action : packet (.storyEnd v k act f failed) = sent 3 (one v.val ++ one k ++ [endActionByte act] ++
          four f ++ match failed with
          | none => one 0
          | some j => one 1 ++ one j) := by
        cases failed <;> rfl
      rw [action, endActionByte_eq h] <;> rfl

end Sys2Proof.Machine
end

section
/-! The way of a packet: which reach the control interpreter, after the work of their frame, and which bad ones
are refused (O20 to O22). -/

namespace Sys2Proof.Machine

/-! ### Requests by their kinds -/

theorem exec_of_mem_requests {k : Byte} {c : Request → Instr} (h : (k, c) ∈ requests) (p : Request) (s : State) :
    exec (c p) s = .next (arrivalOfKind k p s) := by
  simp only [requests, List.mem_cons, Prod.mk.injEq, List.not_mem_nil, or_false] at h
  rcases h with h | h | h | h | h | h | h | h | h | h | h | h | h | h | h <;> obtain ⟨rfl, rfl⟩ := h <;> rfl

/-- A control packet is a control arrival of its kind, but for SOFT_RESET, whose reply counts itself first. -/
theorem arrivalOfKind_cases (k : Byte) (p : Request) :
    (∃ carry, ∀ s, arrivalOfKind k p s = controlArrival k p carry s) ∨
      k = 14#8 ∧ ∀ s, arrivalOfKind k p s = softResetArrival p s := by
  have of {n : Nat} (small : n < 256) (h : k.toNat = n) : k = BitVec.ofNat 8 n := by
    rw [← h]; simp
  have same {f : State → State} (h : ∀ s, arrivalOfKind k p s = f s) : ∀ s, arrivalOfKind k p s = f s := h
  by_cases soft : k.toNat = 14
  · obtain rfl := of (by decide) soft
    exact .inr ⟨rfl, fun _ => rfl⟩
  · refine .inl ?_
    unfold arrivalOfKind
    split
    case h_14 h => exact absurd h soft
    case h_16 => exact ⟨_, fun _ => rfl⟩
    all_goals
      next h =>
        obtain rfl := of (by decide) h
        exact ⟨_, fun _ => rfl⟩

theorem softResetArrival_of_others {p : Request} {s : State} (ready : Ready s) (others : ForOthers p s) :
    softResetArrival p s = passed (packetBytes 14#8 p) s := by
  rw [softResetArrival, if_pos ready.takes, finishWork_of_workDone ready.done, if_neg others.1, if_neg others.2]
  rfl

theorem arrivalOfKind_of_others {k : Byte} {p : Request} {s : State} (ready : Ready s) (others : ForOthers p s) :
    arrivalOfKind k p s = passed (packetBytes k p) s := by
  obtain ⟨carry, e⟩ | ⟨rfl, e⟩ := arrivalOfKind_cases k p
  · rw [e, controlArrival_of_others ready others]
  · rw [e, softResetArrival_of_others ready others]

/-- A CONTROL packet shorter than its header is forwarded. -/
theorem ancillary_short {packet : List Byte} {s : State} (ready : Ready s)
    (control : packet.head? = some 0x62#8) (short : packet.length < 5) :
    ancillary packet s = passed packet s := by
  obtain _ | ⟨c, rest⟩ := packet
  · simp at control
  · obtain rfl : c = 0x62#8 := by simpa using control
    rw [ancillary.eq_def]
    dsimp only
    rw [if_neg (by decide), if_pos rfl]
    split
    · simp only [List.length_cons] at short; omega
    · rw [if_pos ready.takes, finishWork_of_workDone ready.done]; rfl

theorem ancillary_other {b : Byte} {rest : List Byte} {s : State} (ready : Ready s) (caption : b ≠ 0x61#8)
    (control : b ≠ 0x62#8) : ancillary (b :: rest) s = passed (b :: rest) s := by
  rw [ancillary.eq_def]
  dsimp only
  rw [if_neg caption, if_neg control, if_pos ready.takes]; rfl

/-- Settles O20. -/
theorem packetsFiltered : Obligations.PacketsFiltered := by
  refine ⟨fun k c p s listed ready others => ?_, fun k p s ready others => ⟨?_, ?_⟩,
    fun packet s ready control short => ?_, fun _ _ => rfl, fun b rest s ready caption control => ?_⟩
  · rw [exec_of_mem_requests listed, arrivalOfKind_of_others ready others]
  · exact congrArg Host.Outcome.next (arrivalOfKind_of_others ready others)
  · exact congrArg Host.Outcome.next (arrivalOfKind_of_others ready others)
  · exact congrArg Host.Outcome.next (ancillary_short ready control short)
  · exact congrArg Host.Outcome.next (ancillary_other ready caption control)

/-! ### The work before them -/

theorem exec_of_work {s : State} {c : Instr} {w : Work} (awake : s.resetLow = false) (h : c.work = some w) :
    exec c s = .next (runWork w s) := by
  have named (w : Work) : Host.Outcome.next (whenAwake s (runWork w)) =
      (.next (runWork w s) : Host.Outcome State Fault Refusal) := congrArg _ (whenAwake_awake _ awake)
  cases c
  all_goals simp only [Instr.work, Option.some.injEq, reduceCtorEq] at h
  all_goals subst h; exact named _

theorem runWork_of_alone {s : State} {w : Work}
    (hold : ∀ v, w = .holdEnd v → Work.ageOut v ∉ s.due ∧ Work.silence v ∉ s.due)
    (silence : ∀ v, w = .silence v → Work.ageOut v ∉ s.due ∧ Work.holdEnd v ∉ s.due) :
    runWork w s = doWork w s := by
  cases w with
  | holdEnd v =>
    obtain ⟨age, quiet⟩ := hold v rfl
    have later : Work.silence v ∉ (doWork (.holdEnd v) s).due := by
      rw [due_doWork]; exact fun h => quiet (List.mem_of_mem_erase h)
    simp only [runWork]
    rw [doWork_not_due age, doWork_not_due later, ite_self]
  | silence v =>
    obtain ⟨age, held⟩ := silence v rfl
    simp only [runWork]
    rw [doWork_not_due age, doWork_not_due held]
  | _ => rfl

theorem finishWork_of_cons {s : State} {w : Work} {rest : List Work} (h : s.due = w :: rest) :
    finishWork s = finishWork (settle (perform w { s with due := rest })) := by
  have first : doWork w s = settle (perform w { s with due := rest }) := by
    rw [doWork_of_due (by simp [h]), h, List.erase_cons_head]
  have left : (doWork w s).due = rest := by rw [due_doWork, h, List.erase_cons_head]
  rw [← first, finishWork, finishWork, h, left]
  rfl

theorem due_finishWork (s : State) : (finishWork s).due = [] :=
  congrArg Settings.due (settings_finishWork s)

theorem resetLow_finishWork (s : State) : (finishWork s).resetLow = s.resetLow :=
  congrArg Settings.resetLow (settings_finishWork s)

theorem finishWork_finishWork (s : State) : finishWork (finishWork s) = finishWork s :=
  finishWork_of_workDone (due_finishWork s)

theorem takesPackets_finishWork (s : State) : takesPackets (finishWork s) = takesPackets s := by
  rw [takesPackets, resetLow_finishWork, ref_finishWork]; rfl

theorem controlArrival_finishWork {k : Byte} {p : Request} {carry : Request → State → Handled} {s : State}
    (takes : takesPackets s = true) : controlArrival k p carry s = controlArrival k p carry (finishWork s) := by
  rw [controlArrival, controlArrival, takesPackets_finishWork, finishWork_finishWork, if_pos takes, if_pos takes]

theorem softResetArrival_finishWork {p : Request} {s : State} (takes : takesPackets s = true) :
    softResetArrival p s = softResetArrival p (finishWork s) := by
  rw [softResetArrival, softResetArrival, takesPackets_finishWork, finishWork_finishWork, if_pos takes,
    if_pos takes]

theorem arrivalOfKind_finishWork {k : Byte} {p : Request} {s : State} (takes : takesPackets s = true) :
    arrivalOfKind k p s = arrivalOfKind k p (finishWork s) := by
  obtain ⟨carry, e⟩ | ⟨rfl, e⟩ := arrivalOfKind_cases k p
  · rw [e, e, controlArrival_finishWork takes]
  · rw [e, e, softResetArrival_finishWork takes]

theorem ancillary_finishWork {rest : List Byte} {s : State} (takes : takesPackets s = true) :
    ancillary (0x62#8 :: rest) s = ancillary (0x62#8 :: rest) (finishWork s) := by
  rw [ancillary.eq_def, ancillary.eq_def]
  dsimp only
  have caption : (0x62#8 : Byte) ≠ 0x61#8 := by decide
  have control : (0x62#8 : Byte) = 0x62#8 := rfl
  rw [if_neg caption, if_neg caption, if_pos control, if_pos control]
  split
  · exact arrivalOfKind_finishWork takes
  · rw [takesPackets_finishWork, finishWork_finishWork, if_pos takes, if_pos takes]

theorem count_frameStartWork (w : Work) : frameStartWork.count w = match w with
    | .drain _ => 0
    | _ => 1 := by
  cases w with
  | edge i => fin_cases i <;> decide
  | _ v => fin_cases v <;> decide

/-- Settles O21: a packet, a carriage point, an expiry or a frame start finishes the work first, and finished
work is finished. -/
theorem workPrecedesPackets : Obligations.WorkPrecedesPackets := by
  refine ⟨count_frameStartWork, fun s c w awake h => exec_of_work awake h, fun s w hold silence => ?_,
    fun s => ⟨finishWork_of_workDone, fun w rest => finishWork_of_cons⟩,
    fun s awake => ⟨due_finishWork s, settings_finishWork s, fun locked => ?_, fun free lv f => ?_,
      fun begun lv => ?_⟩⟩
  · rw [runWork_of_alone hold silence]
    split
    · next due => exact doWork_of_due due
    · next none => exact doWork_not_due none
  · have takes : takesPackets s = true := by simp [takesPackets, awake, locked]
    refine ⟨fun k c p listed => ?_, fun k p => congrArg Host.Outcome.next (arrivalOfKind_finishWork takes),
      fun rest => congrArg Host.Outcome.next (ancillary_finishWork takes), fun d => ?_, fun lv f1 f2 f3 => ?_⟩
    · rw [exec_of_mem_requests listed, exec_of_mem_requests listed, arrivalOfKind_finishWork takes]
    · rw [exec, exec, execCarriagePoint, execCarriagePoint, takesPackets_finishWork, finishWork_finishWork,
        if_pos takes, if_pos takes]
    · rw [exec, exec, execLossThresholdExpiry, execLossThresholdExpiry, whenAwake_awake _ awake,
        whenAwake_awake _ ((resetLow_finishWork s).trans awake), if_pos locked,
        if_pos ((ref_finishWork s).trans locked), loseReference, loseReference, finishWork_finishWork]
  · rw [exec, exec, execFrameTimerExpiry, execFrameTimerExpiry, whenAwake_awake _ awake,
      whenAwake_awake _ ((resetLow_finishWork s).trans awake), if_pos free,
      if_pos ((ref_finishWork s).trans free), finishWork_finishWork]
  · rw [exec_frameStart awake, exec_frameStart ((resetLow_finishWork s).trans awake)]
    cases ref : s.ref with
    | seeking => exact absurd ref begun
    | locked =>
      rw [realFrame_of_locked ref, realFrame_of_locked ((ref_finishWork s).trans ref), finishWork_finishWork]
    | freewheel =>
      rw [realFrame_of_freewheel ref, realFrame_of_freewheel ((ref_finishWork s).trans ref),
        finishWork_finishWork]

/-! ### Bad packets -/

theorem interpret_malformed {fits : Nat → Bool} {handler : List Byte → State → Handled} {p : Request} {s : State}
    (h : fits p.len.toNat = false ∨ 120 < p.len.toNat ∨ p.body.length < p.len.toNat) :
    interpret fits handler p s = refuse .malformed s := by
  rw [interpret, if_neg]
  simp only [lengthFits, Bool.and_eq_true, decide_eq_true_eq, not_and, not_le]
  rintro ⟨fit, le⟩
  obtain no | long | cut := h
  · simp [no] at fit
  · omega
  · omega

/-- A request of a kind with one body length, whose announced length or body does not fit. -/
theorem exec_malformed {k : Byte} {c : Request → Instr} {n : Nat} (listed : (k, c, n) ∈ fixedLengths)
    {p : Request} {s t : State} (ready : Ready s) (arrives : Arrives k p s t)
    (bad : p.len.toNat ≠ n ∨ p.body.length < p.len.toNat) :
    exec (c p) s = .next (replied k p .malformed [] t) := by
  have misfit : decide (p.len.toNat = n) = false ∨ 120 < p.len.toNat ∨ p.body.length < p.len.toNat := by
    obtain other | cut := bad
    · exact .inl (decide_eq_false other)
    · exact .inr (.inr cut)
  have arrival (handler : List Byte → State → Handled) :
      controlArrival k p (interpret (fun m => decide (m = n)) handler) s = replied k p .malformed [] t := by
    rw [controlArrival_of_arrives ready arrives, interpret_malformed misfit]; rfl
  have softReset (h14 : k = 14#8) (h0 : n = 0) : softResetArrival p s = replied k p .malformed [] t := by
    subst h14 h0
    rw [softResetArrival_of_arrives ready arrives, interpret_malformed misfit]; rfl
  simp only [fixedLengths, List.mem_cons, Prod.mk.injEq, List.not_mem_nil, or_false] at listed
  rcases listed with h | h | h | h | h | h | h | h | h | h | h | h | h | h <;> obtain ⟨rfl, rfl, rfl⟩ := h
  case inr.inr.inr.inr.inr.inr.inr.inr.inr.inr.inr.inr.inl =>
    exact congrArg Host.Outcome.next (softReset rfl rfl)
  all_goals exact congrArg Host.Outcome.next (arrival _)

theorem arrivalOfKind_unknown {k : Byte} {p : Request} {s : State} (h : k = 0#8 ∨ 15 < k.toNat) :
    arrivalOfKind k p s = unknownArrival k p s := by
  have outside : k.toNat = 0 ∨ 15 < k.toNat := by
    obtain rfl | h := h
    exacts [.inl rfl, .inr h]
  unfold arrivalOfKind
  split
  case h_16 => rfl
  all_goals omega

/-- Settles O22. -/
theorem badPacketsRefused : Obligations.BadPacketsRefused := by
  refine fun p s t ready => ⟨fun k c n listed arrives bad => exec_malformed listed ready arrives bad,
    fun arrives bad => congrArg Host.Outcome.next ?_, fun k arrives unknown => congrArg Host.Outcome.next ?_⟩
  · have misfit : decide (5 ≤ p.len.toNat) = false ∨ 120 < p.len.toNat ∨ p.body.length < p.len.toNat := by
      obtain short | long := bad
      · exact .inl (decide_eq_false (by omega))
      · exact .inr long
    rw [loadCueArrival, controlArrival_of_arrives ready arrives, interpret_malformed misfit]; rfl
  · rw [arrivalOfKind_unknown unknown, unknownArrival, controlArrival_of_arrives ready arrives]; rfl

end Sys2Proof.Machine
end

section
/-! Requests that load lines, services, slot maps and inputs (O24 to O27, O31). -/

namespace Sys2Proof.Machine

/-- A request that arrives with a body that fits its kind is answered with what its handler gives. -/
theorem exec_of_handled {k : Byte} {c : Request → Instr} {fits : Nat → Bool}
    {handler : List Byte → State → Handled} {p : Request} {s t u : State} {body reply : List Byte} {r : ReplyCode}
    (e : exec (c p) s = .next (controlArrival k p (interpret fits handler) s)) (ready : Ready s)
    (arrives : Arrives k p s t) (hasBody : HasBody p body) (fit : fits body.length = true ∧ body.length ≤ 120)
    (h : handler body t = { state := u, code := r, body := reply }) :
    exec (c p) s = .next (replied k p r reply u) := by
  rw [e, controlArrival_of_arrives ready arrives, interpret_of_hasBody hasBody fit.1 fit.2, h]; rfl

theorem Arrives.eq_out {k : Byte} {p : Request} {s t : State} (h : Arrives k p s t) :
    ∃ o, t = { s with out := o } := ⟨_, h.same⟩

/-! ### LOAD_LINE (R16, R26, R50) -/

theorem asSubstitute_of_range {b : Byte} (lo : 0x20 ≤ b.toNat) (hi : b.toNat ≤ 0x7E) :
    asSubstitute b = some b := by rw [asSubstitute, if_pos ⟨lo, hi⟩]

theorem asSubstitute_eq_none {b : Byte} : asSubstitute b = none ↔ b.toNat < 0x20 ∨ 0x7E < b.toNat := by
  rw [asSubstitute]
  split <;> simp <;> omega

theorem asRate_eq_none {b : Byte} : asRate b = none ↔ 5 < b.toNat := by
  rw [asRate]; split <;> simp_all; omega

theorem asDataBits_eq_none {b : Byte} : asDataBits b = none ↔ b.toNat < 7 ∨ 8 < b.toNat := by
  rw [asDataBits]; split <;> simp_all; omega

theorem asParity_eq_none {b : Byte} : asParity b = none ↔ 2 < b.toNat := by
  rw [asParity]; split <;> simp_all; omega

/-- R16, R26, R50: what loading a record does to a line, with the mark of a line that loses flow control or is
disabled released. -/
theorem loadRecord_eq (pfn : Frame) (r : LineRecord) (x : Line) :
    loadRecord pfn r x =
      let released := x.xoff = true ∧
        (x.record.flow = true ∧ r.flow = false ∨ x.record.enabled = true ∧ r.enabled = false)
      { x with
        record := r
        lat := { x.lat with lest := 8 * r.l0 }
        stamp := if x.record.enabled = false ∧ r.enabled = true then pfn else x.stamp
        xoff := if released then false else x.xoff
        sending :=
          if released ∧ x.sending = none ∧ x.lastSent = .xoff then
            some { byte := .xon, rate := r.rate, dataBits := r.dataBits, parity := r.parity }
          else x.sending } := by
  have stamp : (if (r.enabled && !x.record.enabled) = true then pfn else x.stamp) =
      if x.record.enabled = false ∧ r.enabled = true then pfn else x.stamp := by
    cases x.record.enabled <;> cases r.enabled <;> rfl
  simp only [loadRecord, stamp]
  by_cases released : x.xoff = true ∧
      (x.record.flow = true ∧ r.flow = false ∨ x.record.enabled = true ∧ r.enabled = false)
  · have cond : (((x.record.flow && !r.flow) || (x.record.enabled && !r.enabled)) && x.xoff) = true := by
      obtain ⟨mark, flow | off⟩ := released
      · simp [mark, flow]
      · simp [mark, off]
    rw [if_pos cond, setXoff, transmit]
    simp only [released, true_and, and_self, if_true]
    cases sending : x.sending <;> cases last : x.lastSent <;> simp [calledFor]
  · have cond : ¬ (((x.record.flow && !r.flow) || (x.record.enabled && !r.enabled)) && x.xoff) = true := by
      simp only [Bool.and_eq_true, Bool.or_eq_true, Bool.not_eq_true', not_and_or] at released ⊢
      tauto
    rw [if_neg cond]
    simp only [released, false_and, if_false]

theorem parseLine_of_bytes (l : LineIx) (en flow ad : Bool) (rate : LineRate) (bits : DataBits) (par : Parity)
    {sub : Byte} (fl a1 a0 b1 b0 c1 c0 : Byte) (lo : 0x20 ≤ sub.toNat) (hi : sub.toNat ≤ 0x7E) :
    parseLine [byte1 l.val, flagByte en, rateByte rate, dataBitsByte bits, parityByte par, flagByte flow, sub, fl,
      a1, a0, b1, b0, c1, c0, flagByte ad] =
    .ok (l, { enabled := en, rate := rate, dataBits := bits, parity := par, flow := flow, substitute := sub
              flushDelay := max 1 (min 250 fl.toNat), l0 := min 511 (256 * a1.toNat + a0.toNat)
              lmin := min 511 (256 * b1.toNat + b0.toNat)
              lmax := max (min 511 (256 * b1.toNat + b0.toNat)) (min 511 (256 * c1.toNat + c0.toNat))
              adaptive := ad },
      decide (fl.toNat = 0 ∨ 250 < fl.toNat ∨ 511 < 256 * a1.toNat + a0.toNat ∨
        511 < 256 * b1.toNat + b0.toNat ∨ 511 < 256 * c1.toNat + c0.toNat ∨
        256 * c1.toNat + c0.toNat < min 511 (256 * b1.toNat + b0.toNat))) := by
  have window (m n : Nat) : (max (min 511 m) (min 511 n) != n) = decide (511 < n ∨ n < min 511 m) := by
    rw [Bool.eq_iff_iff, bne_iff_ne, decide_eq_true_iff]
    omega
  have flush (n : Nat) : (max 1 (min 250 n) != n) = decide (n = 0 ∨ 250 < n) := by
    rw [Bool.eq_iff_iff, bne_iff_ne, decide_eq_true_iff]
    omega
  simp only [parseLine, at1, num1, num2, List.getD_cons_zero, List.getD_cons_succ, asFin4_byte1, asFlag_flagByte,
    asRate_rateByte, asDataBits_dataBitsByte, asParity_parityByte, asSubstitute_of_range lo hi, clampNat]
  rw [window, flush, min_bne, min_bne]
  simp only [← Bool.decide_or, or_assoc]

/-- A line above 3 refuses the body with BAD_INDEX, and a field that is no value of its list with BAD_VALUE. -/
theorem parseLine_bad (l en rate bits par flow sub fl a1 a0 b1 b0 c1 c0 ad : Byte) :
    let body := [l, en, rate, bits, par, flow, sub, fl, a1, a0, b1, b0, c1, c0, ad]
    (4 ≤ l.toNat → parseLine body = .error .badIndex) ∧
    (l.toNat < 4 →
      1 < en.toNat ∨ 5 < rate.toNat ∨ bits.toNat < 7 ∨ 8 < bits.toNat ∨ 2 < par.toNat ∨
        1 < flow.toNat ∨ sub.toNat < 0x20 ∨ 0x7E < sub.toNat ∨ 1 < ad.toNat →
      parseLine body = .error .badValue) := by
  refine ⟨fun high => ?_, fun low bad => ?_⟩
  · simp only [parseLine, at1, List.getD_cons_zero]
    rw [asFin4_eq_none.mpr high]
  · simp only [parseLine, at1, num1, num2, List.getD_cons_zero, List.getD_cons_succ]
    rw [(asFin4_of_lt low).1]
    dsimp only
    split
    · next hen hrate hbits hpar hflow hsub had =>
      have none {α : Type} {o : Option α} {a : α} (h : o = some a) : o ≠ none := by simp [h]
      have hen := asFlag_eq_none.not.mp (none hen)
      have hrate := asRate_eq_none.not.mp (none hrate)
      have hbits := asDataBits_eq_none.not.mp (none hbits)
      have hpar := asParity_eq_none.not.mp (none hpar)
      have hflow := asFlag_eq_none.not.mp (none hflow)
      have hsub := asSubstitute_eq_none.not.mp (none hsub)
      have had := asFlag_eq_none.not.mp (none had)
      omega
    · rfl

/-- Settles O24: the body's bytes decide between the record loaded and the refusals. -/
theorem loadLineTaken : Obligations.LoadLineTaken := by
  constructor
  · intro p s t l en flow ad rate bits par sub fl a1 a0 b1 b0 c1 c0 ready arrives body lo hi l0 lmin lmax r old
      released x
    refine exec_of_handled (fits := fun n => decide (n = 15)) (handler := doLoadLine) rfl ready arrives body
      ⟨rfl, by simp⟩ ?_
    obtain ⟨o, rfl⟩ := arrives.eq_out
    rw [doLoadLine, parseLine_of_bytes l en flow ad rate bits par fl a1 a0 b1 b0 c1 c0 lo hi]
    dsimp only
    rw [okOr_decide]
    exact congrArg (Handled.mk · _ _) (updLine_congr (loadRecord_eq s.pfn r old))
  · intro p s t l en rate bits par flow sub fl a1 a0 b1 b0 c1 c0 ad ready arrives body
    obtain ⟨index, value⟩ := parseLine_bad l en rate bits par flow sub fl a1 a0 b1 b0 c1 c0 ad
    have refused {c : ReplyCode} (h : parseLine [l, en, rate, bits, par, flow, sub, fl, a1, a0, b1, b0, c1, c0, ad]
        = .error c) : exec (.loadLine p) s = .next (replied 2#8 p c [] t) :=
      exec_of_handled (fits := fun n => decide (n = 15)) (handler := doLoadLine) rfl ready arrives body
        ⟨rfl, by simp⟩ (by rw [doLoadLine, h]; rfl)
    exact ⟨fun high => refused (index high), fun low bad => refused (value low bad)⟩

end Sys2Proof.Machine
end

section
/-! LOAD_SERVICE, LOAD_SLOTMAP and LOAD_GPI (O25 to O27, O31). -/

namespace Sys2Proof.Machine

/-! ### The forms of a LOAD_SERVICE body (R71) -/

theorem asFlag_of_le {b : Byte} (h : b.toNat ≤ 1) : asFlag b = some (decide (b = 1#8)) := by
  obtain zero | one : b = 0#8 ∨ b = 1#8 := by bv_omega
  · subst zero; rfl
  · subst one; rfl

theorem asFin4_of_lt' {b : Byte} (h : b.toNat < 4) : asFin4 b = some (Fin.ofNat 4 b.toNat) := by
  rw [(asFin4_of_lt h).1]
  exact congrArg some (Fin.ext (Nat.mod_eq_of_lt h).symm)

theorem asLine_eq_none {b : Byte} : asLine b = none ↔ 4 ≤ b.toNat ∧ b ≠ 0xFF#8 := by
  rw [asLine]
  split
  · next absent => simp [absent]
  · next named => simp [asFin4_eq_none, named]

theorem asLine_of_form {b : Byte} (h : b.toNat < 4 ∨ b = 0xFF#8) :
    asLine b = some (if b = 0xFF#8 then none else some (Fin.ofNat 4 b.toNat)) := by
  rw [asLine]
  split
  · rfl
  · next named => rw [asFin4_of_lt' (h.resolve_right named)]; rfl

theorem asDisplay_eq_none {b : Byte} : asDisplay b = none ↔ 1 < b.toNat := by
  rw [asDisplay]; split <;> simp_all; omega

theorem asDisplay_of_le {b : Byte} (h : b.toNat ≤ 1) :
    asDisplay b = some (if b = 0#8 then .rollUp else .popOn) := by
  obtain zero | one : b = 0#8 ∨ b = 1#8 := by bv_omega
  · subst zero; rfl
  · subst one; rfl

/-- Two line bytes of the form of R151 that name the same line are the same byte. -/
theorem lineByte_injective {a b : Byte} (ha : a.toNat < 4 ∨ a = 0xFF#8) (hb : b.toNat < 4 ∨ b = 0xFF#8)
    (h : asLine a = asLine b) : a = b := by
  rw [asLine_of_form ha, asLine_of_form hb, Option.some.injEq] at h
  split at h <;> split at h
  · next fa fb => rw [fa, fb]
  · simp at h
  · simp at h
  · next na nb =>
    have la := ha.resolve_right na
    have lb := hb.resolve_right nb
    have same := congrArg Fin.val (Option.some.inj h)
    simp only [Fin.val_ofNat] at same
    rw [Nat.mod_eq_of_lt la, Nat.mod_eq_of_lt lb] at same
    exact BitVec.eq_of_toNat_eq same

theorem clampOff_eq (n : Nat) : clampOff n = if n = 0 then 0 else max 50 (min 3000 n) := rfl

theorem clampOff_eq_self {n : Nat} : clampOff n = n ↔ n = 0 ∨ 50 ≤ n ∧ n ≤ 3000 := by
  rw [clampOff_eq]; split <;> omega

theorem clampNat_eq_self {lo hi n : Nat} (h : lo ≤ hi) : clampNat lo hi n = n ↔ lo ≤ n ∧ n ≤ hi := by
  rw [clampNat]; omega

theorem clampSofs_eq_self {n : Int} : clampSofs n = n ↔ -64 ≤ n ∧ n ≤ 64 := by
  rw [clampSofs]; omega

/-- Dmax as it is held: not below a Dmin in its range, and not above 1500. -/
theorem heldMax_eq_self {d x : Nat} (lo : 12 ≤ d) (hi : d ≤ 250) :
    max (clampNat 12 250 d) (min 1500 x) = x ↔ d ≤ x ∧ x ≤ 1500 := by
  rw [(clampNat_eq_self (by decide)).mpr ⟨lo, hi⟩]; omega

section

variable (v en pri bak disp w rows r d1 d0 x1 x0 h1 h0 c1 c0 f1 f0 g1 g0 sofs pr gap : Byte)

/-- R71: the body of a LOAD_SERVICE request, byte by byte. -/
def serviceBytes : List Byte :=
  [v, en, pri, bak, disp, w, rows, r, d1, d0, x1, x0, h1, h0, c1, c0, f1, f0, g1, g0, sofs, pr, gap]

theorem parseService_badIndex (high : 4 ≤ v.toNat) :
    parseService (serviceBytes v en pri bak disp w rows r d1 d0 x1 x0 h1 h0 c1 c0 f1 f0 g1 g0 sofs pr gap) =
      .error .badIndex := by
  simp only [parseService, serviceBytes, at1, List.getD_cons_zero]
  rw [asFin4_eq_none.mpr high]

theorem parseService_badValue (low : v.toNat < 4)
    (bad : 1 < en.toNat ∨ 4 ≤ pri.toNat ∧ pri ≠ 0xFF#8 ∨ 4 ≤ bak.toNat ∧ bak ≠ 0xFF#8 ∨ 1 < disp.toNat ∨
      pri = bak ∧ pri ≠ 0xFF#8) :
    parseService (serviceBytes v en pri bak disp w rows r d1 d0 x1 x0 h1 h0 c1 c0 f1 f0 g1 g0 sofs pr gap) =
      .error .badValue := by
  simp only [parseService, serviceBytes, at1, num1, num2, List.getD_cons_zero, List.getD_cons_succ]
  rw [asFin4_of_lt' low]
  dsimp only
  split
  · next len lpri lbak ldisp =>
    have none {α : Type} {o : Option α} {a : α} (h : o = some a) : o ≠ none := by simp [h]
    have hen := asFlag_eq_none.not.mp (none len)
    have hpri := asLine_eq_none.not.mp (none lpri)
    have hbak := asLine_eq_none.not.mp (none lbak)
    have hdisp := asDisplay_eq_none.not.mp (none ldisp)
    obtain ⟨same, named⟩ : pri = bak ∧ pri ≠ 0xFF#8 := by
      obtain h | h | h | h | h := bad
      · exact absurd h hen
      · exact absurd h hpri
      · exact absurd h hbak
      · exact absurd h hdisp
      · exact h
    subst same
    obtain rfl := Option.some.inj (lpri.symm.trans lbak)
    have form : pri.toNat < 4 ∨ pri = 0xFF#8 := by
      by_cases low : pri.toNat < 4
      · exact .inl low
      · exact absurd ⟨not_lt.mp low, named⟩ hpri
    rw [asLine_of_form form, if_neg named] at lpri
    obtain rfl := Option.some.inj lpri
    simp
  · rfl

theorem parseService_ok (low : v.toNat < 4) (hen : en.toNat ≤ 1) (hpri : pri.toNat < 4 ∨ pri = 0xFF#8)
    (hbak : bak.toNat < 4 ∨ bak = 0xFF#8) (hdisp : disp.toNat ≤ 1) (differ : pri = 0xFF#8 ∨ pri ≠ bak) :
    let line (b : Byte) : Option LineIx := if b = 0xFF#8 then none else some (Fin.ofNat 4 b.toNat)
    let two (hi lo : Byte) : Nat := 256 * hi.toNat + lo.toNat
    let off (n : Nat) : Nat := if n = 0 then 0 else max 50 (min 3000 n)
    parseService (serviceBytes v en pri bak disp w rows r d1 d0 x1 x0 h1 h0 c1 c0 f1 f0 g1 g0 sofs pr gap) =
      .ok (Fin.ofNat 4 v.toNat,
        { enabled := en = 1#8, primary := line pri, backup := line bak,
          display := if disp = 0#8 then .rollUp else .popOn,
          width := max 16 (min 42 w.toNat), rows := max 1 (min 3 rows.toNat),
          readingRate := max 8 (min 30 r.toNat), dmin := max 12 (min 250 (two d1 d0)),
          dmax := max (max 12 (min 250 (two d1 d0))) (min 1500 (two x1 x0)),
          holdLimit := max 12 (min 250 (two h1 h0)), tclear := off (two c1 c0), fs := off (two f1 f0),
          fh := min 6000 (two g1 g0), sofs := max (-64) (min 64 sofs.toInt), priority := min 3 pr.toNat,
          gap := max 5 (min 250 gap.toNat) },
        clampNat 16 42 w.toNat != w.toNat || clampNat 1 3 rows.toNat != rows.toNat ||
          clampNat 8 30 r.toNat != r.toNat || clampNat 12 250 (two d1 d0) != two d1 d0 ||
          max (clampNat 12 250 (two d1 d0)) (min 1500 (two x1 x0)) != two x1 x0 ||
          clampNat 12 250 (two h1 h0) != two h1 h0 || clampOff (two c1 c0) != two c1 c0 ||
          clampOff (two f1 f0) != two f1 f0 || min 6000 (two g1 g0) != two g1 g0 ||
          clampSofs sofs.toInt != sofs.toInt || min 3 pr.toNat != pr.toNat ||
          clampNat 5 250 gap.toNat != gap.toNat) := by
  intro line two off
  simp only [parseService, serviceBytes, at1, num1, num2, List.getD_cons_zero, List.getD_cons_succ]
  rw [asFin4_of_lt' low, asFlag_of_le hen, asLine_of_form hpri, asLine_of_form hbak, asDisplay_of_le hdisp]
  dsimp only
  rw [if_neg]
  · rfl
  simp only [Bool.and_eq_true, beq_iff_eq, not_and]
  intro named same
  have equal := lineByte_injective hpri hbak (by rw [asLine_of_form hpri, asLine_of_form hbak, same])
  obtain absent | other := differ
  · simp [absent] at named
  · exact other equal

end

/-- Settles O25: the three readings of a body. -/
theorem serviceRecordRead : Obligations.ServiceRecordRead := by
  intro v en pri bak disp w rows r d1 d0 x1 x0 h1 h0 c1 c0 f1 f0 g1 g0 sofs pr gap body line two off
  refine ⟨parseService_badIndex v en pri bak disp w rows r d1 d0 x1 x0 h1 h0 c1 c0 f1 f0 g1 g0 sofs pr gap,
    parseService_badValue v en pri bak disp w rows r d1 d0 x1 x0 h1 h0 c1 c0 f1 f0 g1 g0 sofs pr gap,
    fun low hen hpri hbak hdisp differ => ⟨_, parseService_ok v en pri bak disp w rows r d1 d0 x1 x0 h1 h0 c1 c0 f1 f0 g1 g0 sofs pr gap
      low hen hpri hbak hdisp differ, ?_⟩⟩
  simp only [Bool.or_eq_false_iff, bne_eq_false_iff_eq, clampOff_eq_self, clampSofs_eq_self, min_eq_right_iff]
  rw [clampNat_eq_self (by decide), clampNat_eq_self (by decide), clampNat_eq_self (by decide),
    clampNat_eq_self (by decide), clampNat_eq_self (by decide), clampNat_eq_self (by decide)]
  constructor
  · rintro ⟨⟨⟨⟨⟨⟨⟨⟨⟨⟨⟨hw, hrows⟩, hr⟩, hd⟩, hx⟩, hh⟩, hc⟩, hf⟩, hg⟩, hs⟩, hp⟩, hgap⟩
    have hx := (heldMax_eq_self hd.1 hd.2).mp hx
    exact ⟨hw.1, hw.2, hrows.1, hrows.2, hr.1, hr.2, hd.1, hd.2, hx.1, hx.2, hh.1, hh.2, hc, hf, hg, hs.1, hs.2,
      hp, hgap.1, hgap.2⟩
  · rintro ⟨hw, hw', hrows, hrows', hr, hr', hd, hd', hx, hx', hh, hh', hc, hf, hg, hs, hs', hp, hgap, hgap'⟩
    exact ⟨⟨⟨⟨⟨⟨⟨⟨⟨⟨⟨⟨hw, hw'⟩, hrows, hrows'⟩, hr, hr'⟩, hd, hd'⟩, (heldMax_eq_self hd hd').mpr ⟨hx, hx'⟩⟩,
      hh, hh'⟩, hc⟩, hf⟩, hg⟩, hs, hs'⟩, hp⟩, hgap, hgap'⟩

/-! ### LOAD_SERVICE (R71, R72) -/

theorem linesInUse_iff {s : State} {v : ServiceIx} {r : ServiceRecord} :
    linesInUse s v r = true ↔ ∃ u l, u ≠ v ∧ hasLine (s.service u) l = true ∧
      (r.primary = some l ∨ r.backup = some l) := by
  simp only [linesInUse, List.any_eq_true, Bool.and_eq_true, decide_eq_true_eq, Bool.or_eq_true,
    Option.any_eq_true]
  constructor
  · rintro ⟨u, -, other, ⟨l, line, has⟩ | ⟨l, line, has⟩⟩
    · exact ⟨u, l, other, has, .inl line⟩
    · exact ⟨u, l, other, has, .inr line⟩
  · rintro ⟨u, l, other, has, line | line⟩
    · exact ⟨u, mem_fours u, other, .inl ⟨l, line, has⟩⟩
    · exact ⟨u, mem_fours u, other, .inr ⟨l, line, has⟩⟩

/-- Settles O26: the state of the named service, and the lines of the record, choose the case. -/
theorem loadServiceTaken : Obligations.LoadServiceTaken := by
  intro p s t body ready arrives hasBody len
  have handled {c : ReplyCode} {u : State} (h : doLoadService body t = { state := u, code := c, body := [] }) :
      exec (.loadService p) s = .next (replied 3#8 p c [] u) :=
    exec_of_handled (fits := fun n => decide (n = 23)) (handler := doLoadService) rfl ready arrives hasBody
      ⟨by simp [len], by omega⟩ h
  refine ⟨fun c bad => handled (by rw [doLoadService, bad]; rfl), fun v r clamped parsed => ?_⟩
  obtain ⟨o, rfl⟩ := arrives.eq_out
  intro old code taken inUse
  have handler : doLoadService body { s with out := o } =
      if old.enabled then
        if r.enabled then
          if r.primary = old.primary ∧ r.backup = old.backup then
            accept (okOr clamped) (changeService v r { s with out := o })
          else refuse .inUse { s with out := o }
        else accept (okOr clamped) (settle ((restartService v { s with out := o }).updService v fun x =>
          { x with record := r }))
      else if r.enabled && linesInUse { s with out := o } v r then refuse .inUse { s with out := o }
      else accept (okOr clamped) taken := by
    rw [doLoadService, parsed]; rfl
  have used : linesInUse { s with out := o } v r = true ↔ inUse := linesInUse_iff
  refine ⟨fun off on busy => handled ?_, fun off free => handled ?_, fun was on primary backup => handled ?_,
    fun was on other => handled ?_, fun was off => handled ?_⟩
  · rw [handler, if_neg (by simp [off]), if_pos (by simp [on, used.mpr busy])]; rfl
  · rw [handler, if_neg (by simp [off]), if_neg]
    · rfl
    · rw [Bool.and_eq_true, used]
      exact fun h => free h.1 h.2
  · rw [handler, if_pos was, if_pos on, if_pos ⟨primary, backup⟩]; rfl
  · rw [handler, if_pos was, if_pos on, if_neg (by tauto)]; rfl
  · rw [handler, if_pos was, if_neg (by simp [off])]; rfl

/-! ### LOAD_SLOTMAP (R142) -/

theorem exists_twelve {α : Type} {xs : List α} (h : xs.length = 12) :
    ∃ a0 a1 a2 a3 a4 a5 a6 a7 a8 a9 a10 a11, xs = [a0, a1, a2, a3, a4, a5, a6, a7, a8, a9, a10, a11] := by
  match xs, h with
  | [a0, a1, a2, a3, a4, a5, a6, a7, a8, a9, a10, a11], _ =>
    exact ⟨a0, a1, a2, a3, a4, a5, a6, a7, a8, a9, a10, a11, rfl⟩

theorem parseSlots_of_map (m : SlotMap) : parseSlots (m.toList.map lineByte) = some m := by
  obtain ⟨⟨xs⟩, len⟩ := m
  obtain ⟨a0, a1, a2, a3, a4, a5, a6, a7, a8, a9, a10, a11, rfl⟩ := exists_twelve len
  simp [parseSlots, at1, asSlot_lineByte]

theorem asSlot_eq_none {b : Byte} : asSlot b = none ↔ 4 ≤ b.toNat ∧ b ≠ 0xFF#8 := asLine_eq_none

theorem parseSlots_eq_none {body : List Byte} (len : body.length = 12)
    (bad : ∃ b ∈ body, 4 ≤ b.toNat ∧ b ≠ 0xFF#8) : parseSlots body = none := by
  obtain ⟨b, mem, bad⟩ := bad
  have none := asSlot_eq_none.mpr bad
  obtain ⟨a0, a1, a2, a3, a4, a5, a6, a7, a8, a9, a10, a11, rfl⟩ := exists_twelve len
  simp only [parseSlots, at1, List.getD_cons_zero, List.getD_cons_succ]
  simp only [List.mem_cons, List.not_mem_nil, or_false] at mem
  split
  · rcases mem with h | h | h | h | h | h | h | h | h | h | h | h <;> subst h <;> simp_all
  · rfl

/-- Settles O27. -/
theorem loadSlotmapTaken : Obligations.LoadSlotmapTaken := by
  intro p s t ready arrives
  have handled {body : List Byte} {c : ReplyCode} {u : State} (hasBody : HasBody p body) (len : body.length = 12)
      (h : doLoadSlotmap body t = { state := u, code := c, body := [] }) :
      exec (.loadSlotmap p) s = .next (replied 4#8 p c [] u) :=
    exec_of_handled (fits := fun n => decide (n = 12)) (handler := doLoadSlotmap) rfl ready arrives hasBody
      ⟨by simp [len], by omega⟩ h
  refine ⟨fun m hasBody => handled hasBody (by simp) ?_, fun body hasBody len bad => handled hasBody len ?_⟩
  · rw [doLoadSlotmap, parseSlots_of_map]; rfl
  · rw [doLoadSlotmap, parseSlots_eq_none len bad]; rfl

/-! ### LOAD_GPI (R62, R64) -/

theorem asFunction_eq_none {b : Byte} : asFunction b = none ↔ 5 < b.toNat := by
  rw [asFunction]; split <;> simp_all; omega

theorem parseGpi_badValue {i f v hi nr : Byte} (low : i.toNat < 8)
    (bad : 5 < f.toNat ∨ 3 < v.toNat ∨ 1 < hi.toNat) : parseGpi [i, f, v, hi, nr] = .error .badValue := by
  have index : asFin8 i ≠ none := fun h => absurd (asFin8_eq_none.mp h) (by omega)
  obtain ⟨j, index⟩ := Option.ne_none_iff_exists'.mp index
  simp only [parseGpi, at1, List.getD_cons_zero, List.getD_cons_succ, index]
  split
  · next lf lv lhi =>
    have none {α : Type} {o : Option α} {a : α} (h : o = some a) : o ≠ none := by simp [h]
    have hf := asFunction_eq_none.not.mp (none lf)
    have hv := asFin4_eq_none.not.mp (none lv)
    have hhi := asFlag_eq_none.not.mp (none lhi)
    omega
  · rfl

/-- Settles O31. -/
theorem loadGpiTaken : Obligations.LoadGpiTaken := by
  intro p s t ready arrives
  have handled {body : List Byte} {c : ReplyCode} {u : State} (hasBody : HasBody p body) (len : body.length = 5)
      (h : doLoadGpi body t = { state := u, code := c, body := [] }) :
      exec (.loadGpi p) s = .next (replied 7#8 p c [] u) :=
    exec_of_handled (fits := fun n => decide (n = 5)) (handler := doLoadGpi) rfl ready arrives hasBody
      ⟨by simp [len], by omega⟩ h
  refine ⟨fun i f v hi nr hasBody => handled hasBody rfl ?_, fun i f v hi nr hasBody =>
    ⟨fun high => handled hasBody rfl ?_, fun low bad => handled hasBody rfl ?_⟩⟩
  · have parsed : parseGpi [byte1 i.val, functionByte f, byte1 v.val, flagByte hi, nr] =
        .ok (i, { function := f, target := v, activeHigh := hi, nr := min 7 nr.toNat },
          decide (7 < nr.toNat)) := by
      simp [parseGpi, at1, num1, asFin8_byte1, asFin4_byte1, asFlag_flagByte, asFunction_functionByte, min_bne]
    rw [doLoadGpi, parsed]
    dsimp only
    rw [okOr_decide]
    rfl
  · rw [doLoadGpi, parseGpi, show asFin8 (at1 [i, f, v, hi, nr] 0) = none from asFin8_eq_none.mpr high]; rfl
  · rw [doLoadGpi, parseGpi_badValue low bad]; rfl

end Sys2Proof.Machine
end

section
/-! LOAD_STORY, LOAD_CUE, ARM and ADVANCE (O28, O29, O32, O33). -/

namespace Sys2Proof.Machine

/-! ### LOAD_STORY (R88) -/

theorem asAdvance_eq_none {b : Byte} : asAdvance b = none ↔ 1 < b.toNat := by
  rw [asAdvance]; split <;> simp_all; omega

theorem asAdvance_of_le {b : Byte} (h : b.toNat ≤ 1) :
    asAdvance b = some (if b = 0#8 then .triggered else .timed) := by
  obtain zero | one : b = 0#8 ∨ b = 1#8 := by bv_omega
  · subst zero; rfl
  · subst one; rfl

theorem asEndAction_eq_none {b : Byte} : asEndAction b = none ↔ 2 < b.toNat := by
  rw [asEndAction]; split <;> simp_all; omega

theorem asEndAction_of_le {b : Byte} (h : b.toNat ≤ 2) :
    asEndAction b = some (if b = 0#8 then .live else if b = 1#8 then .hold else .next) := by
  obtain zero | one | two : b = 0#8 ∨ b = 1#8 ∨ b = 2#8 := by bv_omega
  · subst zero; rfl
  · subst one; rfl
  · subst two; rfl

/-- The end action read from a byte is NEXT exactly for the byte 2. -/
theorem asEndAction_next {b : Byte} : asEndAction b = some .next ↔ b = 2#8 := by
  constructor
  · intro h
    rw [asEndAction] at h
    split at h <;> simp_all
    bv_omega
  · rintro rfl; rfl

/-- The code of a request one of whose numbers has been held to its range. -/
theorem okOr_bne (held given : Nat) : okOr (held != given) = if held = given then .ok else .clamped := by
  by_cases same : held = given <;> simp [okOr, same]

section

variable (k f1 f0 c n1 n0 ring adv act next note : Byte)

/-- R88: the body of a LOAD_STORY request, byte by byte. -/
def storyBytes : List Byte := [k, f1, f0, c, n1, n0, ring, adv, act, next, note]

/-- R88: an option read from a byte, 0xFF standing for none, that holds a number with some property. -/
theorem any_ofByte {b : Byte} {q : Nat → Bool} :
    (if b = 0xFF#8 then none else some b.toNat).any q = true ↔ b ≠ 0xFF#8 ∧ q b.toNat = true := by
  split <;> simp_all

theorem parseStory_badValue
    (bad : c.toNat = 0 ∨ 64 < c.toNat ∨ 1 < adv.toNat ∨ 2 < act.toNat ∨ ring ≠ 0xFF#8 ∧ c.toNat ≤ ring.toNat ∨
      act = 2#8 ∧ 63 < next.toNat ∨ 1 < note.toNat) :
    parseStory (storyBytes k f1 f0 c n1 n0 ring adv act next note) = .error .badValue := by
  simp only [parseStory, storyBytes, at1, num1, num2, List.getD_cons_zero, List.getD_cons_succ, any_ofByte,
    decide_eq_true_eq]
  by_cases count : c.toNat = 0 ∨ 64 < c.toNat
  · rw [if_pos count]
  by_cases ringBad : ring ≠ 0xFF#8 ∧ c.toNat ≤ ring.toNat
  · rw [if_neg count, if_pos ringBad]
  rw [if_neg count, if_neg ringBad]
  split
  · next hadv hact hnote =>
    rw [if_pos]
    have none {α : Type} {o : Option α} {a : α} (h : o = some a) : o ≠ none := by simp [h]
    have adv' := asAdvance_eq_none.not.mp (none hadv)
    have act' := asEndAction_eq_none.not.mp (none hact)
    have note' := asFlag_eq_none.not.mp (none hnote)
    obtain ⟨nextAct, far⟩ : act = 2#8 ∧ 63 < next.toNat := by
      obtain h | h | h | h | h | h | h := bad
      · exact absurd (.inl h) count
      · exact absurd (.inr h) count
      · exact absurd h adv'
      · exact absurd h act'
      · exact absurd h ringBad
      · exact h
      · exact absurd h note'
    exact ⟨Option.some.inj (hact.symm.trans (asEndAction_next.mpr nextAct)), fun h => absurd h.2 (by omega)⟩
  · rfl

theorem parseStory_ok
    (good : ¬ (c.toNat = 0 ∨ 64 < c.toNat ∨ 1 < adv.toNat ∨ 2 < act.toNat ∨
      ring ≠ 0xFF#8 ∧ c.toNat ≤ ring.toNat ∨ act = 2#8 ∧ 63 < next.toNat ∨ 1 < note.toNat)) :
    let n := 256 * n1.toNat + n0.toNat
    let n' := if ring = 0xFF#8 then c.toNat else max 1 n
    parseStory (storyBytes k f1 f0 c n1 n0 ring adv act next note) =
      .ok ({ first := 256 * f1.toNat + f0.toNat, count := c.toNat, transfer := n'
             ring := if ring = 0xFF#8 then none else some ring.toNat
             advance := if adv = 0#8 then .triggered else .timed
             endAction := if act = 0#8 then .live else if act = 1#8 then .hold else .next
             next := if act = 2#8 then some next.toNat else none
             endNotice := note = 1#8 }, n' != n) := by
  intro n n'
  simp only [not_or, not_lt] at good
  obtain ⟨least, most, hadv, hact, hring, hnext, hnote⟩ := good
  simp only [parseStory, storyBytes, at1, num1, num2, List.getD_cons_zero, List.getD_cons_succ, any_ofByte,
    decide_eq_true_eq]
  rw [if_neg (by omega), if_neg hring, asAdvance_of_le hadv, asEndAction_of_le hact, asFlag_of_le hnote]
  dsimp only
  have isNext : (if act = 0#8 then EndAction.live else if act = 1#8 then .hold else .next) = .next ↔ act = 2#8 := by
    rw [← asEndAction_next, asEndAction_of_le hact, Option.some.injEq]
  simp only [isNext]
  rw [if_neg]
  · have ringNone : (if ring = 0xFF#8 then Option.none else some ring.toNat).isNone = decide (ring = 0xFF#8) := by
      split <;> simp_all
    have nextRead (two : act = 2#8) : (if next = 0xFF#8 then Option.none else Option.some next.toNat) =
        Option.some next.toNat := if_neg fun h => hnext ⟨two, by rw [h]; decide⟩
    rw [ringNone]
    simp only [decide_eq_true_eq]
    by_cases two : act = 2#8
    · rw [if_pos two, if_pos two, nextRead two]
    · rw [if_neg two, if_neg two]
  · rintro ⟨two, unread⟩
    have low : next.toNat ≤ 63 := not_lt.mp fun h => hnext ⟨two, h⟩
    exact unread ⟨fun h => absurd low (by rw [h]; decide), low⟩

end

/-- Settles O28: the checks of R88 in order, and the record that the body spells. -/
theorem loadStoryTaken : Obligations.LoadStoryTaken := by
  intro p s t k f1 f0 c n1 n0 ring adv act next note ready arrives hasBody first n n' story held far bad
  have handled {r : ReplyCode} {u : State}
      (h : doLoadStory (storyBytes k f1 f0 c n1 n0 ring adv act next note) t =
        { state := u, code := r, body := [] }) : exec (.loadStory p) s = .next (replied 5#8 p r [] u) :=
    exec_of_handled (fits := fun n => decide (n = 11)) (handler := doLoadStory) rfl ready arrives hasBody
      ⟨rfl, by simp⟩ h
  have run : doLoadStory (storyBytes k f1 f0 c n1 n0 ring adv act next note) t =
      if 63 < k.toNat then refuse .badIndex t
      else if (holderOf t k.toNat).isSome then refuse .inUse t
      else if far then refuse .badIndex t
      else match parseStory (storyBytes k f1 f0 c n1 n0 ring adv act next note) with
        | .error c => refuse c t
        | .ok (st, clamped) => accept (okOr clamped) { t with stories := storePut k.toNat st t.stories } := rfl
  have isHeld : (holderOf t k.toNat).isSome = true ↔ held := by
    obtain ⟨o, rfl⟩ := arrives.eq_out
    exact holderOf_isSome_iff
  refine ⟨fun high => handled ?_, fun low here => handled ?_, fun low free hfar => handled ?_,
    fun low free near isBad => handled ?_, fun low free near good => handled ?_⟩
  · rw [run, if_pos high]; rfl
  · rw [run, if_neg (not_lt.mpr low), if_pos (isHeld.mpr here)]; rfl
  · rw [run, if_neg (not_lt.mpr low), if_neg (isHeld.not.mpr free), if_pos hfar]; rfl
  · rw [run, if_neg (not_lt.mpr low), if_neg (isHeld.not.mpr free), if_neg near,
      parseStory_badValue k f1 f0 c n1 n0 ring adv act next note isBad]; rfl
  · rw [run, if_neg (not_lt.mpr low), if_neg (isHeld.not.mpr free), if_neg near,
      parseStory_ok k f1 f0 c n1 n0 ring adv act next note good]
    dsimp only
    exact congrArg (Handled.mk _ · _) (okOr_bne n' n)

/-! ### LOAD_CUE (R89) -/

/-- R89: two row breaks stand together somewhere in a text. -/
theorem noDoubleBreak_eq_false {t : List Byte} :
    noDoubleBreak t = false ↔ ∃ a b, t = a ++ 0x0A#8 :: 0x0A#8 :: b := by
  induction t with
  | nil => simp [noDoubleBreak]
  | cons x t ih =>
    cases t with
    | nil =>
      simp only [noDoubleBreak, Bool.true_eq_false, false_iff, not_exists]
      intro a b h
      have := congrArg List.length h
      simp at this; omega
    | cons y t =>
      rw [noDoubleBreak, Bool.and_eq_false_iff, ih]
      constructor
      · rintro (both | ⟨a, b, h⟩)
        · simp only [Bool.not_eq_false', Bool.and_eq_true, beq_iff_eq] at both
          exact ⟨[], t, by rw [both.1, both.2]; rfl⟩
        · exact ⟨x :: a, b, by rw [h]; rfl⟩
      · rintro ⟨a, b, h⟩
        cases a with
        | nil =>
          obtain ⟨rfl, rfl, -⟩ : x = 0x0A#8 ∧ y = 0x0A#8 ∧ t = b := by simpa using h
          exact .inl rfl
        | cons _ a => exact .inr ⟨a, b, (List.cons.inj h).2⟩

theorem checkText_malformed {t : List Byte} (h : t.countP isCueGlyph = 0 ∨ 96 < t.countP isCueGlyph) :
    checkText t = some .malformed := if_pos h

section

variable {t : List Byte} (least : 1 ≤ t.countP isCueGlyph) (most : t.countP isCueGlyph ≤ 96)

/-- R89: what makes a text with a right number of glyphs bad. -/
def BadText (t : List Byte) : Prop :=
  (∃ b ∈ t, isCueGlyph b = false ∧ b ≠ 0x0A#8) ∨ t.head? = some 0x0A#8 ∨ t.getLast? = some 0x0A#8 ∨
    ∃ a b, t = a ++ 0x0A#8 :: 0x0A#8 :: b

include least most in
theorem checkText_of_count :
    (BadText t → checkText t = some .badValue) ∧ (¬ BadText t → checkText t = none) := by
  have count : ¬ (t.countP isCueGlyph = 0 ∨ Config.cueGlyphLimit < t.countP isCueGlyph) := by
    have : Config.cueGlyphLimit = 96 := rfl
    omega
  have foreign : (t.all fun b => isCueGlyph b || b == 0x0A#8) = false ↔
      ∃ b ∈ t, isCueGlyph b = false ∧ b ≠ 0x0A#8 := by simp
  have bad : (!(t.all fun b => isCueGlyph b || b == 0x0A#8) || t.head? == some 0x0A#8 ||
      t.getLast? == some 0x0A#8 || !noDoubleBreak t) = true ↔ BadText t := by
    simp only [BadText, ← foreign, ← noDoubleBreak_eq_false, Bool.or_eq_true, Bool.not_eq_true', beq_iff_eq,
      or_assoc]
  refine ⟨fun h => ?_, fun h => ?_⟩
  · rw [checkText, if_neg count, if_pos (bad.mpr h)]
  · rw [checkText, if_neg count, if_neg (bad.not.mpr h)]

end

section

variable (k1 k0 i1 i0 : Byte) (text : List Byte)

theorem cueText_eq : cueText (k1 :: k0 :: text ++ [i1, i0]) = text := by
  simp [cueText]

theorem cueInterval_eq : cueInterval (k1 :: k0 :: text ++ [i1, i0]) = 256 * i1.toNat + i0.toNat := by
  simp [cueInterval, num2, num1, at1]

end

/-- Settles O29: the checks of R89 in order, and the record that the body spells. -/
theorem loadCueTaken : Obligations.LoadCueTaken := by
  intro p s t k1 k0 i1 i0 text ready arrives hasBody short long k i glyph held count bad
  have handled {r : ReplyCode} {u : State}
      (h : doLoadCue (k1 :: k0 :: text ++ [i1, i0]) t = { state := u, code := r, body := [] }) :
      exec (.loadCue p) s = .next (replied 6#8 p r [] u) :=
    exec_of_handled (fits := fun n => decide (5 ≤ n)) (handler := doLoadCue) rfl ready arrives hasBody
      ⟨by simp; omega, by simp; omega⟩ h
  have run : doLoadCue (k1 :: k0 :: text ++ [i1, i0]) t =
      if 511 < k then refuse .badIndex t
      else if cueLocked t k then refuse .inUse t
      else match checkText text with
        | some c => refuse c t
        | none => accept (okOr (clampNat 1 1500 i != i))
            { t with cues := storePut k { text := text, interval := clampNat 1 1500 i } t.cues } := by
    rw [doLoadCue, cueText_eq, cueInterval_eq]; rfl
  have isHeld : cueLocked t k = true ↔ held := by
    obtain ⟨o, rfl⟩ := arrives.eq_out
    exact cueLocked_iff
  refine ⟨fun high => handled ?_, fun low here => handled ?_, fun low free wrong => handled ?_,
    fun low free least most isBad => handled ?_, fun low free least most good => handled ?_⟩
  · rw [run, if_pos high]; rfl
  · rw [run, if_neg (not_lt.mpr low), if_pos (isHeld.mpr here)]; rfl
  · rw [run, if_neg (not_lt.mpr low), if_neg (isHeld.not.mpr free), checkText_malformed wrong]; rfl
  · rw [run, if_neg (not_lt.mpr low), if_neg (isHeld.not.mpr free), (checkText_of_count least most).1 isBad]; rfl
  · rw [run, if_neg (not_lt.mpr low), if_neg (isHeld.not.mpr free), (checkText_of_count least most).2 good]
    dsimp only
    rw [okOr_bne]
    simp only [clampNat_eq_self (show 1 ≤ 1500 by decide)]
    rfl

/-! ### ARM (R91) -/

theorem doArm_badIndex {b k : Byte} {s : State} (h : 4 ≤ b.toNat ∨ 63 < k.toNat) :
    doArm [b, k] s = refuse .badIndex s := by
  by_cases high : 4 ≤ b.toNat
  · rw [doArm, show asFin4 (at1 [b, k] 0) = none from asFin4_eq_none.mpr high]
  · rw [doArm, show asFin4 (at1 [b, k] 0) = some _ from asFin4_of_lt' (not_le.mp high)]
    exact if_pos (h.resolve_left high)

/-- R91: the checks of ARM on a service and a story in their ranges. -/
theorem doArm_eq (v : ServiceIx) {k : Byte} (s : State) (h : k.toNat ≤ 63) :
    doArm [byte1 v.val, k] s =
      if (s.service v).record.enabled = false then refuse .badValue s
      else if (s.service v).runner.phase ≠ .idle then refuse .busy s
      else if storyComplete s k.toNat = false then refuse .incomplete s
      else if heldElsewhere s v k.toNat then refuse .inUse s
      else match storeGet k.toNat s.stories with
        | none => refuse .incomplete s
        | some st => accept .ok (s.updRunner v (armRunner k.toNat st)) := by
  rw [doArm, show asFin4 (at1 [byte1 v.val, k] 0) = some v from asFin4_byte1 v]
  dsimp only
  rw [if_neg (show ¬ 63 < num1 [byte1 v.val, k] 1 from not_lt.mpr h)]
  split
  · rfl
  split
  · rfl
  show (match storeGet k.toNat s.stories with | none => _ | some st => _) = _
  cases stored : storeGet k.toNat s.stories with
  | none =>
    have incomplete : storyComplete s k.toNat = false := by rw [storyComplete, stored]
    rw [if_pos incomplete]
  | some st => rfl

/-- Settles O32: the checks of R91 in order, and the runner armed. -/
theorem armTaken : Obligations.ArmTaken := by
  intro p s t b k ready arrives hasBody
  have handled {r : ReplyCode} {u : State} (h : doArm [b, k] t = { state := u, code := r, body := [] }) :
      exec (.arm p) s = .next (replied 8#8 p r [] u) :=
    exec_of_handled (fits := fun n => decide (n = 2)) (handler := doArm) rfl ready arrives hasBody
      ⟨rfl, by simp⟩ h
  refine ⟨fun bad => handled (doArm_badIndex bad), ?_⟩
  rintro v rfl low x complete elsewhere
  have run := doArm_eq v t low
  have isComplete : storyComplete t k.toNat = true ↔ complete := by
    obtain ⟨o, rfl⟩ := arrives.eq_out
    exact storyComplete_iff
  have isElsewhere : heldElsewhere t v k.toNat = true ↔ elsewhere := by
    obtain ⟨o, rfl⟩ := arrives.eq_out
    exact heldElsewhere_iff
  have notComplete (h : complete) : ¬ storyComplete t k.toNat = false := by rw [isComplete.mpr h]; decide
  obtain ⟨service, stories⟩ : t.service v = x ∧ t.stories = s.stories := by
    obtain ⟨o, rfl⟩ := arrives.eq_out
    exact ⟨rfl, rfl⟩
  rw [service] at run
  refine ⟨fun off => handled ?_, fun on busy => handled ?_, fun on idle part => handled ?_,
    fun on idle whole other => handled ?_, fun st on idle whole alone stored => handled ?_⟩
  · rw [run, if_pos off]; rfl
  · rw [run, if_neg (by simp [on]), if_pos busy]; rfl
  · rw [run, if_neg (by simp [on]), if_neg (not_not.mpr idle), if_pos (by simpa using isComplete.not.mpr part)]; rfl
  · rw [run, if_neg (by simp [on]), if_neg (not_not.mpr idle), if_neg (notComplete whole),
      if_pos (isElsewhere.mpr other)]; rfl
  · rw [run, if_neg (by simp [on]), if_neg (not_not.mpr idle), if_neg (notComplete whole),
      if_neg (isElsewhere.not.mpr alone), stories, stored]; rfl

/-! ### ADVANCE (R92, R93, R104) -/

/-- R92: what ADVANCE takes is a runner ARMED or RUNNING in SCRIPT mode. -/
theorem takesTrigger_iff {x : Service} :
    takesTrigger x = true ↔ (x.runner.phase = .armed ∨ x.runner.phase = .running) ∧ x.sel.mode = .script := by
  simp [takesTrigger]

theorem hasRoom_iff {q : Scheduler} : hasRoom q = true ↔ q.queue.length < 64 := by
  rw [hasRoom, decide_eq_true_iff]; rfl

/-- R93: no cue is issued to a full queue. -/
theorem issueCue_of_full {v : ServiceIx} {a : Frame} {s : State} (full : 64 ≤ (s.service v).sched.queue.length) :
    issueCue v a s = none := by
  have noRoom : ¬ hasRoom (s.service v).sched = true := by rw [hasRoom_iff]; omega
  rw [issueCue]
  split
  · rfl
  · rw [if_neg noRoom]

theorem cueRefused_of_full {v : ServiceIx} {s : State} (full : 64 ≤ (s.service v).sched.queue.length) :
    cueRefused v s = s.updSched v fun q => { q with fullRefusals := bump q.fullRefusals } := by
  have noRoom : ¬ hasRoom (s.service v).sched = true := by rw [hasRoom_iff]; omega
  rw [cueRefused, if_neg noRoom]

/-- Settles O33: the refusals of R92 and R104, and the cue issued. -/
theorem advanceTaken : Obligations.AdvanceTaken := by
  intro p s t b ready arrives hasBody
  have handled {r : ReplyCode} {u : State} (h : doAdvance [b] t = { state := u, code := r, body := [] }) :
      exec (.advance p) s = .next (replied 9#8 p r [] u) :=
    exec_of_handled (fits := fun n => decide (n = 1)) (handler := doAdvance) rfl ready arrives hasBody
      ⟨rfl, by simp⟩ h
  refine ⟨fun high => handled ?_, ?_⟩
  · rw [doAdvance, show asFin4 (at1 [b] 0) = none from asFin4_eq_none.mpr high]; rfl
  rintro v rfl x
  obtain ⟨service, pfn⟩ : t.service v = x ∧ t.pfn = s.pfn := by
    obtain ⟨o, rfl⟩ := arrives.eq_out
    exact ⟨rfl, rfl⟩
  have run : doAdvance [byte1 v.val] t =
      if x.runner.phase = .idle ∨ x.runner.phase = .draining then refuse .notArmed t
      else if takesTrigger x then
        match issueCue v s.pfn t with
        | some t' => accept .ok (settle t')
        | none => refuse .busy (cueRefused v t)
      else refuse .notScript t := by
    rw [doAdvance, show asFin4 (at1 [byte1 v.val] 0) = some v from asFin4_byte1 v, ← service, ← pfn] <;> rfl
  have active {q : Runner} (h : q.phase = .armed ∨ q.phase = .running) : ¬ (q.phase = .idle ∨ q.phase = .draining) := by
    rcases h with h | h <;> simp [h]
  refine ⟨fun off => handled ?_, fun other => handled ?_, fun on script full => handled ?_,
    fun u on script issued => handled ?_⟩
  · rw [run, if_pos off]; rfl
  · have idle : ¬ (x.runner.phase = .idle ∨ x.runner.phase = .draining) := by
      rcases other with h | ⟨h, -⟩
      · simp [h]
      · exact active h
    have refused : ¬ takesTrigger x = true := by
      rw [takesTrigger_iff]
      rintro ⟨h, script⟩
      rcases other with away | ⟨-, live⟩
      · simp [away] at h
      · simp [script] at live
    rw [run, if_neg idle, if_neg refused]; rfl
  · have full' : 64 ≤ (t.service v).sched.queue.length := by rw [service]; exact full
    rw [run, if_neg (active on), if_pos (takesTrigger_iff.mpr ⟨on, script⟩), issueCue_of_full full',
      cueRefused_of_full full']; rfl
  · rw [run, if_neg (active on), if_pos (takesTrigger_iff.mpr ⟨on, script⟩), issued]; rfl

end Sys2Proof.Machine
end

section
/-! Issuing a cue and the end actions (O34). -/

namespace Sys2Proof.Machine

/-! ### The end actions (R97, R98) -/

/-- R97: the report queue after the end of story k, noted when the story asks for it. -/
def notedEnd (v : ServiceIx) (k : Nat) (st : Story) (s : State) : Control :=
  if st.endNotice then joinNotice (.storyEnd v k st.endAction s.pfn none) s.ci else s.ci

theorem noteEnd_eq (v : ServiceIx) (k : Nat) (st : Story) (s : State) :
    noteEnd v k st s = { s with ci := notedEnd v k st s } := by
  rw [noteEnd, notedEnd]; split <;> rfl

/-- A state in which a service has another runner and selection, and control another state. -/
def State.playing (s : State) (v : ServiceIx) (r : Runner) (m : Selection) (c : Control) : State :=
  { s.updService v (fun x => { x with runner := r, sel := m }) with ci := c }

section

variable (s : State) (v : ServiceIx) (r : Runner) (m : Selection) (c : Control)

theorem service_playing : (s.playing v r m c).service v = { s.service v with runner := r, sel := m } :=
  service_updService_same s v fun x => { x with runner := r, sel := m }

theorem service_playing_ne {w : ServiceIx} (h : w ≠ v) : (s.playing v r m c).service w = s.service w :=
  service_updService_ne s (fun x => { x with runner := r, sel := m }) h

end

/-! ### Modes (R82, R99) -/

theorem setMode_live (v : ServiceIx) (s : State) :
    setMode v .live s = s.updService v fun x =>
      if x.sel.mode = .live then x
      else { x with sel := { x.sel with mode := .live, awaitsFrame := true }, runner := onLeaveScript x.runner } := by
  rw [setMode]
  split
  · next live =>
    symm
    apply updService_eq_self
    exact if_pos live
  · next away =>
    rw [State.updRunner, State.updSel, updService_updService]
    exact (updService_congr (if_neg away)).symm

theorem setMode_script (v : ServiceIx) (s : State) :
    setMode v .script s = s.updService v fun x =>
      if x.sel.mode = .script then x
      else { x with sel := { x.sel with mode := .script }, runner := onEnterScript x.runner } := by
  rw [setMode]
  split
  · next script =>
    symm
    apply updService_eq_self
    exact if_pos script
  · next away =>
    rw [State.updRunner, State.updSel, updService_updService]
    exact (updService_congr (if_neg away)).symm

/-- R82: the selection after a return to LIVE mode. -/
def returned (m : Selection) : Selection :=
  if m.mode = .live then m else { m with mode := .live, awaitsFrame := true }

section

variable {v : ServiceIx} {k : Nat} {st : Story} {s : State}

theorem endStory_hold (h : st.endAction = .hold) :
    endStory v k st s = s.playing v (idleRunner (s.service v).runner) (s.service v).sel (notedEnd v k st s) := by
  rw [endStory, h, noteEnd_eq]; rfl

theorem endStory_live (h : st.endAction = .live) :
    endStory v k st s =
      s.playing v (idleRunner (s.service v).runner) (returned (s.service v).sel) (notedEnd v k st s) := by
  have left (r : Runner) : onLeaveScript (idleRunner r) = idleRunner r := rfl
  rw [endStory, h, noteEnd_eq]
  dsimp only
  rw [setMode_live, State.updRunner, updService_updService]
  simp only [left]
  have both : (fun x : Service => if x.sel.mode = .live then { x with runner := idleRunner x.runner }
      else { x with sel := { x.sel with mode := .live, awaitsFrame := true }, runner := idleRunner x.runner }) =
      fun x => { x with runner := idleRunner x.runner, sel := returned x.sel } := by
    funext x; rw [returned]; split <;> rfl
  rw [both]
  rfl

theorem endStory_alone (h : st.endAction = .next) (last : st.next = none) :
    endStory v k st s = s.playing v (idleRunner (s.service v).runner) (s.service v).sel s.ci := by
  rw [endStory, h, last]; rfl

theorem endStory_chain {n : Nat} (h : st.endAction = .next) (next : st.next = some n) :
    endStory v k st s = chainTo v k st n s := by rw [endStory, h, next]

theorem chainTo_armed {n : Nat} {st' : Story} (stored : storeGet n s.stories = some st') (free : chainable s v n = true) :
    chainTo v k st n s =
      s.playing v (armRunner n st' (s.service v).runner) (s.service v).sel (notedEnd v k st s) := by
  rw [chainTo, stored]
  dsimp only
  rw [if_pos free, noteEnd_eq]; rfl

theorem chainTo_failed {n : Nat} (barred : chainable s v n = false) :
    chainTo v k st n s = s.playing v (idleRunner (s.service v).runner) (s.service v).sel
      (joinNotice (.storyEnd v k st.endAction s.pfn (some n)) s.ci) := by
  rw [chainTo]
  split
  · rw [if_neg (by simp [barred])]; rfl
  · rfl

/-- A story that is not stored is not complete, so that no runner chains to it. -/
theorem chainable_stored {n : Nat} (free : chainable s v n = true) : ∃ st', storeGet n s.stories = some st' := by
  obtain ⟨whole, -⟩ := Bool.and_eq_true_iff.mp free
  obtain ⟨st', stored, -⟩ := storyComplete_iff.mp whole
  exact ⟨st', stored⟩

/-- R97, R98: an end action changes the runner and the selection of its service and the report queue, and
nothing else. -/
theorem endStory_playing (v : ServiceIx) (k : Nat) (st : Story) (s : State) :
    ∃ r m c, endStory v k st s = s.playing v r m c := by
  cases act : st.endAction with
  | live => exact ⟨_, _, _, endStory_live act⟩
  | hold => exact ⟨_, _, _, endStory_hold act⟩
  | next =>
    cases next : st.next with
    | none => exact ⟨_, _, _, endStory_alone act next⟩
    | some n =>
      rw [endStory_chain act next]
      cases free : chainable s v n with
      | true =>
        obtain ⟨st', stored⟩ := chainable_stored free
        exact ⟨_, _, _, chainTo_armed stored free⟩
      | false => exact ⟨_, _, _, chainTo_failed free⟩

end

/-! ### Issuing a cue (R93, R94) -/

/-- R93, R94: the state with the cue joined to its queue and the runner moved on, the end action aside. -/
def withCue (v : ServiceIx) (b : EntryBody) (st : Story) (c : Cue) (s : State) : State :=
  s.updService v fun x =>
    { x with
      sched := join b (targetFrame s v b none) (latenessOf s v b none) x.sched
      runner := afterIssue st c.interval (targetFrame s v b none) x.runner }

theorem issueCue_eq {v : ServiceIx} {a : Frame} {s : State} {k : Nat} {st : Story} {c : Cue}
    (holds : (s.service v).runner.story = some k) (stored : storeGet k s.stories = some st)
    (loaded : storeGet (st.first + (s.service v).runner.pointer) s.cues = some c)
    (room : (s.service v).sched.queue.length < 64) :
    let t := withCue v (.cue k (st.first + (s.service v).runner.pointer) c.text a) st c s
    issueCue v a s = some (if (s.service v).runner.remaining ≤ 1 then endStory v k st t else t) := by
  intro t
  have here : cueAtPointer s v = some (k, st, c) := by
    simp only [cueAtPointer, holds, stored, loaded]
  rw [issueCue, here]
  dsimp only
  rw [if_pos (hasRoom_iff.mpr room), offer, if_pos (hasRoom_iff.mpr room)]
  dsimp only
  rw [State.updRunner, State.updSched, updService_updService]
  show (if (t.service v).runner.remaining = 0 then some (endStory v k st t) else some t) = _
  have left : (t.service v).runner.remaining = (s.service v).runner.remaining - 1 :=
    congrArg (fun x : Service => x.runner.remaining) (service_updService_same s v _)
  rw [left]
  split
  · rw [if_pos (by omega)]
  · rw [if_neg (by omega)]

section

variable (v : ServiceIx) (b : EntryBody) (st : Story) (c : Cue) (s : State)

theorem service_withCue : (withCue v b st c s).service v =
    { s.service v with
      sched := join b (targetFrame s v b none) (latenessOf s v b none) (s.service v).sched
      runner := afterIssue st c.interval (targetFrame s v b none) (s.service v).runner } :=
  service_updService_same s v fun x =>
    { x with
      sched := join b (targetFrame s v b none) (latenessOf s v b none) x.sched
      runner := afterIssue st c.interval (targetFrame s v b none) x.runner }

theorem service_withCue_ne {w : ServiceIx} (h : w ≠ v) : (withCue v b st c s).service w = s.service w :=
  service_updService_ne s _ h

/-- R98: whether the runner of v may chain to a story does not rest on what v itself holds. -/
theorem chainable_withCue (n : Nat) : chainable (withCue v b st c s) v n = chainable s v n := by
  have others : heldElsewhere (withCue v b st c s) v n = heldElsewhere s v n := by
    rw [Bool.eq_iff_iff, heldElsewhere_iff, heldElsewhere_iff]
    refine exists_congr fun u => and_congr_right fun other => ?_
    rw [service_withCue_ne v b st c s other]
  rw [chainable, others]; rfl

theorem nextPointer_eq (p : Nat) : nextPointer st p = if p + 1 < st.count then p + 1 else st.ring.getD p := by
  rw [nextPointer]; split
  · rfl
  · cases st.ring <;> rfl

/-- What stands after a cue has been issued, whatever the end action does. -/
theorem playing_withCue {u : State} {r : Runner} {m : Selection} {d : Control}
    (h : u = (withCue v b st c s).playing v r m d) :
    (u.service v).sched = join b (targetFrame s v b none) (latenessOf s v b none) (s.service v).sched ∧
    (∀ w, w ≠ v → u.service w = s.service w) ∧
    (u.service v).record = (s.service v).record ∧ (u.service v).onsets = (s.service v).onsets ∧
    (u.service v).cb = (s.service v).cb ∧ (u.service v).om = (s.service v).om ∧
    u = { s with services := u.services, ci := u.ci } := by
  have own : u.service v = { (withCue v b st c s).service v with runner := r, sel := m } := by
    rw [h, service_playing]
  rw [service_withCue] at own
  refine ⟨by rw [own], fun w other => ?_, by rw [own], by rw [own], by rw [own], by rw [own], by rw [h]; rfl⟩
  rw [h, service_playing_ne _ _ _ _ _ other, service_withCue_ne v b st c s other]

end

theorem playing_self (v : ServiceIx) (s : State) :
    s = s.playing v (s.service v).runner (s.service v).sel s.ci := by
  have same : s.updService v (fun x => { x with runner := (s.service v).runner, sel := (s.service v).sel }) = s := by
    apply updService_eq_self; rfl
  rw [State.playing, same]

/-- Settles O34: the cue joins its queue and moves the runner on, and the last runs the end action. -/
theorem cueIssued : Obligations.CueIssued := by
  intro v a s k st c r holds stored loaded room body tt idle noted
  have run := issueCue_eq (a := a) holds stored loaded room
  let t := withCue v body st c s
  have own : t.service v = { s.service v with
      sched := join body tt (latenessOf s v body none) (s.service v).sched
      runner := afterIssue st c.interval tt r } := service_withCue v body st c s
  have noted' : notedEnd v k st t = noted := rfl
  have played : ∃ r' m d, (if r.remaining ≤ 1 then endStory v k st t else t) = t.playing v r' m d := by
    split
    · exact endStory_playing v k st t
    · exact ⟨_, _, _, playing_self v t⟩
  obtain ⟨r', m, d, form⟩ := played
  obtain ⟨sched, others, record, onsets, cb, om, frame⟩ := playing_withCue v body st c s form
  refine ⟨_, run, sched, fun more => ?_, fun last => ?_, others, record, onsets, cb, om, frame⟩
  · rw [if_neg (not_le.mpr more)]
    change (t.service v).runner = _ ∧ (t.service v).sel = _ ∧ t.ci = _
    rw [own]
    refine ⟨?_, rfl, rfl⟩
    show afterIssue st c.interval tt r = _
    rw [afterIssue, nextPointer_eq]
  · rw [if_pos last]
    change (st.endAction = .hold → ((endStory v k st t).service v).runner = _ ∧
      ((endStory v k st t).service v).sel = _ ∧ (endStory v k st t).ci = _) ∧ _
    refine ⟨fun act => ?_, fun act => ?_, fun n act next => ?_⟩
    · rw [endStory_hold act, service_playing, own]
      exact ⟨rfl, rfl, noted'⟩
    · rw [endStory_live act, service_playing, own]
      exact ⟨rfl, rfl, noted'⟩
    · rw [endStory_chain act next]
      have same : chainable t v n = chainable s v n := chainable_withCue v body st c s n
      refine ⟨?_, fun st' stored' whole alone => ?_, fun barred => ?_⟩
      · cases free : chainable t v n with
        | true =>
          obtain ⟨st', stored'⟩ := chainable_stored free
          rw [chainTo_armed stored' free, service_playing, own]
        | false => rw [chainTo_failed free, service_playing, own]
      · have free : chainable t v n = true := by
          rw [same, chainable, Bool.and_eq_true, storyComplete_iff]
          refine ⟨⟨st', stored', whole⟩, ?_⟩
          rw [Bool.not_eq_true', ← Bool.not_eq_true, heldElsewhere_iff]
          rintro ⟨w, other, active, held⟩
          exact alone w other active held
        rw [chainTo_armed (s := t) stored' free, service_playing, own]
        exact ⟨rfl, noted'⟩
      · have failed : chainable t v n = false := by
          rw [same, chainable]
          rcases barred with h | h <;> simp [h]
        rw [chainTo_failed failed, service_playing, own, act]
        exact ⟨rfl, rfl⟩

end Sys2Proof.Machine
end

section
/-! CANCEL and SELECT (O35, O36). -/

namespace Sys2Proof.Machine

/-! ### CANCEL (R100, R101) -/

/-- R100: the scheduler after a story's CUE entries have left its queue. -/
def withoutCues (k : Nat) (q : Scheduler) : Scheduler :=
  { q with
    queue := q.queue.filter fun e => !isCueOf k e
    lastLeft := match (q.queue.filter (isCueOf k)).getLast? with
      | some e => some e.target
      | none => q.lastLeft }

/-- R41, R100: a story's CUE entries leave the queue, and the lines that wait on it owe a retry when one did. -/
theorem removeCues_eq (v : ServiceIx) (k : Nat) (s : State) :
    removeCues v k s =
      { s.updSched v (withoutCues k) with
        lines := if (s.service v).sched.queue.any (isCueOf k) then s.lines.map (oweRetry v) else s.lines } := by
  rw [removeCues]
  cases left : ((s.service v).sched.queue.filter (isCueOf k)).getLast? with
  | none =>
    have gone : (s.service v).sched.queue.filter (isCueOf k) = [] := List.getLast?_eq_none_iff.mp left
    have absent : ∀ e ∈ (s.service v).sched.queue, isCueOf k e = false := by
      simpa [List.filter_eq_nil_iff] using gone
    have kept : (s.service v).sched.queue.filter (fun e => !isCueOf k e) = (s.service v).sched.queue :=
      List.filter_eq_self.mpr fun e h => by rw [absent e h]; rfl
    have same : withoutCues k (s.service v).sched = (s.service v).sched := by
      rw [withoutCues, kept, left]
    have unchanged : s.updSched v (withoutCues k) = s := by
      apply updService_eq_self; rw [same]
    have none : (s.service v).sched.queue.any (isCueOf k) = false := List.any_eq_false.mpr fun e h => by
      rw [absent e h]; decide
    rw [unchanged, none]; rfl
  | some e =>
    have present : (s.service v).sched.queue.any (isCueOf k) = true := by
      obtain ⟨he, hk⟩ := List.mem_filter.mp (List.mem_of_getLast? left)
      exact List.any_eq_true.mpr ⟨e, he, hk⟩
    rw [present, if_pos rfl]
    dsimp only
    have same : withoutCues k (s.service v).sched = { (s.service v).sched with
        queue := (s.service v).sched.queue.filter (fun e => !isCueOf k e), lastLeft := some e.target } := by
      rw [withoutCues, left]
    have moved : (s.updSched v fun q => { q with queue := q.queue.filter fun x => !isCueOf k x }).updSched v
        (fun q => { q with lastLeft := some e.target }) = s.updSched v (withoutCues k) := by
      rw [State.updSched, State.updSched, updService_updService]
      apply updService_congr
      rw [same]
    rw [departed, moved]; rfl

/-- R100: a builder after the blocks of a story, and its cue in formation, have gone. -/
def withoutBlocks (k : Nat) (c : Builder) : Builder :=
  { c with
    blocks := c.blocks.filter fun b => !isBlockOf k b
    cue := match c.cue with
      | some f => if f.story = k then none else some f
      | none => none }

/-- R100: the runner of a service entering DRAINING, with the removals, the drain check aside. -/
def draining (k : Nat) (x : Service) : Service :=
  { x with
    runner := { x.runner with phase := .draining, nextBase := none }
    sched := withoutCues k x.sched
    cb := withoutBlocks k x.cb }

def drainStarted (v : ServiceIx) (k : Nat) (s : State) : State :=
  { s.updService v (draining k) with
    lines := if (s.service v).sched.queue.any (isCueOf k) then s.lines.map (oweRetry v) else s.lines }

theorem startDrain_eq (v : ServiceIx) (k : Nat) (s : State) :
    startDrain v k s = drainCheck v (drainStarted v k s) := by
  have queue : ((s.updRunner v fun r => { r with phase := .draining, nextBase := none }).service v).sched =
      (s.service v).sched := by rw [service_updRunner_same]
  rw [startDrain, removeCues_eq, queue]
  refine congrArg (drainCheck v) ?_
  have once : ((s.updRunner v fun r => { r with phase := .draining, nextBase := none }).updSched v (withoutCues k)).updCb
      v (withoutBlocks k) = s.updService v (draining k) := by
    rw [State.updCb, State.updSched, State.updRunner, updService_updService, updService_updService]; rfl
  rw [drainStarted, ← once]; rfl

/-- R101: the drain check of a DRAINING runner, by whether a unit of its story is left. -/
theorem drainCheck_of_draining {v : ServiceIx} {s : State} {k : Nat} (phase : (s.service v).runner.phase = .draining)
    (story : (s.service v).runner.story = some k) :
    drainCheck v s = if ∀ u ∈ (s.service v).om.fifo, u.story ≠ some k then
      raise (.storyDrained v k s.pfn) (s.updRunner v idleRunner) else s := by
  have empty : drained (s.service v).om k = true ↔ ∀ u ∈ (s.service v).om.fifo, u.story ≠ some k := by
    simp [drained]
  rw [drainCheck]
  simp only [story, phase, decide_true, Bool.true_and, empty]

theorem service_drainStarted (v : ServiceIx) (k : Nat) (s : State) :
    (drainStarted v k s).service v = draining k (s.service v) := service_updService_same s v (draining k)

theorem service_drainStarted_ne {v w : ServiceIx} (k : Nat) (s : State) (h : w ≠ v) :
    (drainStarted v k s).service w = s.service w := service_updService_ne s (draining k) h

theorem line_drainStarted (v : ServiceIx) (k : Nat) (s : State) (l : LineIx) :
    (drainStarted v k s).line l =
      if (s.service v).sched.queue.any (isCueOf k) = true ∧ (s.line l).asm.held.map Held.on = some v then
        { s.line l with asm := { (s.line l).asm with retryOwed := true } }
      else s.line l := by
  show (if (s.service v).sched.queue.any (isCueOf k) then s.lines.map (oweRetry v) else s.lines).get l = _
  by_cases gone : (s.service v).sched.queue.any (isCueOf k) = true
  · simp only [gone, if_pos, true_and]
    rw [Quad.get_map]
    exact oweRetry_eq v (s.line l)
  · rw [if_neg gone, if_neg (fun h => gone h.1)]; rfl

/-- A notice names the story whose CUE entry it is. -/
theorem isCueOf_eq (k : Nat) (e : Entry) :
    isCueOf k e = match e.body with
      | .cue j _ _ _ => decide (j = k)
      | _ => false := by
  rw [isCueOf]; cases e.body <;> rfl

theorem isBlockOf_eq (k : Nat) (b : Block) :
    (!isBlockOf k b) = match b with
      | .text y => decide (y.story ≠ some k)
      | .clearOnly .. => true := by
  cases b with
  | text y => by_cases h : y.story = some k <;> simp [isBlockOf, h]
  | clearOnly => rfl

theorem withoutBlocks_eq (k : Nat) (c : Builder) :
    withoutBlocks k c =
      { c with
        blocks := c.blocks.filter fun b => match b with
          | .text y => decide (y.story ≠ some k)
          | .clearOnly .. => true
        cue := c.cue.filter fun f => f.story ≠ k } := by
  have cue : (match c.cue with
      | some f => if f.story = k then none else some f
      | none => none) = c.cue.filter fun f => f.story ≠ k := by
    cases c.cue with
    | none => rfl
    | some f => by_cases h : f.story = k <;> simp [h, Option.filter]
  have blocks : (fun b => !isBlockOf k b) = fun b => match b with
      | .text y => decide (y.story ≠ some k)
      | .clearOnly .. => true := funext (isBlockOf_eq k)
  rw [withoutBlocks, blocks]
  congr 1

/-- R100: what startDrain leaves of a service that it drains, and of everything else. -/
theorem drainCheck_drainStarted (v : ServiceIx) (k : Nat) {s : State} (story : (s.service v).runner.story = some k) :
    drainCheck v (drainStarted v k s) =
      if ∀ u ∈ (s.service v).om.fifo, u.story ≠ some k then
        raise (.storyDrained v k s.pfn) ((drainStarted v k s).updRunner v idleRunner)
      else drainStarted v k s := by
  have own := service_drainStarted v k s
  rw [drainCheck_of_draining (by rw [own]; rfl) (by rw [own]; exact story), own]; rfl

/-- What stands of a service that drains a story and of the lines, whatever the drain check finds. -/
theorem playing_drainStarted {v : ServiceIx} {k : Nat} {s u : State} {r : Runner} {c : Control}
    (h : u = (drainStarted v k s).playing v r (s.service v).sel c) :
    u.service v = { draining k (s.service v) with runner := r } ∧ (∀ w, w ≠ v → u.service w = s.service w) ∧
      (∀ l, u.line l = (drainStarted v k s).line l) ∧ u.ci = c := by
  refine ⟨?_, fun w other => ?_, fun l => by rw [h]; rfl, by rw [h]; rfl⟩
  · rw [h, service_playing, service_drainStarted]; rfl
  · rw [h, service_playing_ne _ _ _ _ _ other, service_drainStarted_ne k s other]

theorem playing_raised (v : ServiceIx) (k : Nat) (s : State) :
    raise (.storyDrained v k s.pfn) ((drainStarted v k s).updRunner v idleRunner) =
      (drainStarted v k s).playing v (idleRunner ((drainStarted v k s).service v).runner) (s.service v).sel
        (joinNotice (.storyDrained v k s.pfn) s.ci) := by
  have same : (s.service v).sel = ((drainStarted v k s).service v).sel := by rw [service_drainStarted]; rfl
  rw [same]; rfl

theorem playing_drainStarted_self (v : ServiceIx) (k : Nat) (s : State) :
    drainStarted v k s = (drainStarted v k s).playing v ((drainStarted v k s).service v).runner (s.service v).sel
      (drainStarted v k s).ci := by
  have same : (s.service v).sel = ((drainStarted v k s).service v).sel := by rw [service_drainStarted]; rfl
  rw [same]; exact playing_self v _

/-! A packet that has arrived leaves every service and line as it was. -/

theorem Arrives.service_eq {k : Byte} {p : Request} {s t : State} (h : Arrives k p s t) (w : ServiceIx) :
    t.service w = s.service w := by rw [h.same]; rfl

theorem Arrives.line_eq {k : Byte} {p : Request} {s t : State} (h : Arrives k p s t) (l : LineIx) :
    t.line l = s.line l := by rw [h.same]; rfl

/-- Settles O35: CANCEL by the runner's state; from RUNNING and SUSPENDED it is startDrain. -/
theorem cancelTaken : Obligations.CancelTaken := by
  intro p s t b ready arrives hasBody
  have handled {r : ReplyCode} {u : State} (h : doCancel [b] t = { state := u, code := r, body := [] }) :
      exec (.cancel p) s = .next (replied 10#8 p r [] u) :=
    exec_of_handled (fits := fun n => decide (n = 1)) (handler := doCancel) rfl ready arrives hasBody
      ⟨rfl, by simp⟩ h
  refine ⟨fun high => handled ?_, ?_⟩
  · rw [doCancel, show asFin4 (at1 [b] 0) = none from asFin4_eq_none.mpr high]; rfl
  rintro v rfl x idle
  have named : asFin4 (at1 [byte1 v.val] 0) = some v := asFin4_byte1 v
  have service : ∀ w, t.service w = s.service w := arrives.service_eq
  have own : t.service v = x := service v
  refine ⟨fun phase => handled ?_, fun phase => handled ?_, fun phase => handled ?_, ?_⟩
  · rw [doCancel, named]; dsimp only; rw [own, phase]; rfl
  · rw [doCancel, named]; dsimp only; rw [own, phase]
    refine congrArg (Handled.mk · _ _) (updService_congr ?_)
    rw [own]; rfl
  · rw [doCancel, named]; dsimp only; rw [own, phase]; rfl
  · intro k phase story gone drained
    have run : exec (.cancel p) s = .next (replied 10#8 p .ok [] (settle (startDrain v k t))) := by
      refine handled ?_
      rw [doCancel, named]; dsimp only
      rw [own]
      rcases phase with h | h <;> simp only [h, story] <;> rfl
    have cues : gone = isCueOf k := funext fun e => (isCueOf_eq k e).symm
    have settings : (startDrain v k t).settings = t.settings := settings_startDrain v k t
    have check := drainCheck_drainStarted v k (s := t) (by rw [own]; exact story)
    rw [own] at check
    rw [startDrain_eq] at run settings
    generalize drainCheck v (drainStarted v k t) = u at run settings check
    obtain ⟨r, c, form⟩ : ∃ r c, u = (drainStarted v k t).playing v r (t.service v).sel c := by
      rw [check]
      split
      · exact ⟨_, _, playing_raised v k t⟩
      · exact ⟨_, _, playing_drainStarted_self v k t⟩
    obtain ⟨serviced, others, lines, -⟩ := playing_drainStarted form
    rw [own] at serviced
    refine ⟨u, run, by rw [serviced, cues]; rfl, by rw [serviced, cues]; rfl, ?_, by rw [serviced]; rfl,
      by rw [serviced]; rfl, by rw [serviced]; rfl, fun w other => (others w other).trans (service w), settings,
      fun l => ?_, fun none => ?_, fun some => ?_⟩
    · rw [serviced]
      exact withoutBlocks_eq k x.cb
    · rw [lines, line_drainStarted, own, cues, arrives.line_eq]
    · rw [check, if_pos none]
      refine ⟨?_, ?_⟩
      · show ((State.updRunner _ v idleRunner).service v).runner = idle
        rw [service_updRunner_same, service_drainStarted, own]; rfl
      · obtain ⟨o, rfl⟩ := arrives.eq_out; rfl
    · rw [check, if_neg some, service_drainStarted, own]
      refine ⟨rfl, ?_⟩
      obtain ⟨o, rfl⟩ := arrives.eq_out; rfl

/-! ### SELECT (R82, R83) -/

theorem asSelected_eq_none {b : Byte} : asSelected b = none ↔ 3 < b.toNat := by
  rw [asSelected]; split <;> simp_all; omega

theorem namedLine_eq (x : Service) (c : Choice) :
    namedLine x c = if c = .primary then x.record.primary else x.record.backup := by
  cases c <;> rfl

/-- R83: what SELECT does on an enabled service, by what it names. -/
theorem doSelect_eq {v : ServiceIx} {w : Byte} {s : State} {n : Selected} (on : (s.service v).record.enabled = true)
    (named : asSelected w = some n) :
    doSelect [byte1 v.val, w] s = match n with
      | .mode m => accept .ok (settle (setMode v m s))
      | .choice c =>
        if (namedLine (s.service v) c).isNone then refuse .badValue s
        else if (s.service v).sel.choice = c then accept .ok s
        else accept .ok (settle (switchLine v c s)) := by
  rw [doSelect, show asFin4 (at1 [byte1 v.val, w] 0) = some v from asFin4_byte1 v]
  dsimp only
  rw [if_neg (by simp [on]), show asSelected (at1 [byte1 v.val, w] 1) = some n from named]
  cases n <;> rfl

theorem doSelect_badValue {v : ServiceIx} {w : Byte} {s : State}
    (bad : (s.service v).record.enabled = false ∨ 3 < w.toNat) :
    doSelect [byte1 v.val, w] s = refuse .badValue s := by
  rw [doSelect, show asFin4 (at1 [byte1 v.val, w] 0) = some v from asFin4_byte1 v]
  dsimp only
  split
  · rfl
  · next on =>
    rw [show asSelected (at1 [byte1 v.val, w] 1) = none from asSelected_eq_none.mpr (bad.resolve_left on)]

/-! ### Completing a word leaves the modes and the live choices -/

section

variable {s : State} {m : Mode × Choice} {u : ServiceIx}

/-- The mode and the live choice of a service. -/
def selected (x : Selection) : Mode × Choice := (x.mode, x.choice)

/-- The service u is in the mode and on the choice m. -/
def Selects (u : ServiceIx) (m : Mode × Choice) (s : State) : Prop := selected (s.service u).sel = m

theorem Selects.updService {v : ServiceIx} {f : Service → Service} (h : Selects u m s)
    (same : selected (f (s.service v)).sel = selected (s.service v).sel) : Selects u m (s.updService v f) := by
  rw [Selects, service_updService]
  split
  · next e => rw [same, ← e]; exact h
  · exact h

theorem Selects.offer (v : ServiceIx) (b : EntryBody) (f : Option Frame) (h : Selects u m s) :
    Selects u m (offer v b f s).2 := by
  rw [Machine.offer]; split <;> exact h.updService rfl

theorem Selects.pairIfMarked (l : LineIx) (v : ServiceIx) (a : Frame) (h : Selects u m s) :
    Selects u m (pairIfMarked l v a s) := by
  rw [Machine.pairIfMarked]
  split
  · have onsets {s : State} {f : Onsets → Onsets} (h : Selects u m s) : Selects u m (s.updOnsets v f) :=
      h.updService (f := fun x => { x with onsets := f x.onsets }) rfl
    have lat {s : State} {f : Latency → Latency} (h : Selects u m s) : Selects u m (s.updLat l f) := h
    simp only [pairOnset]
    repeat' split
    · exact lat (onsets (onsets h))
    · exact lat (onsets h)
    · exact lat (onsets h)
  · exact h

theorem Selects.routeWord (l : LineIx) (w : WordRecord) (h : Selects u m s) : Selects u m (routeWord l w s) := by
  have joined (x : Selection) : selected (joinStandby w x) = selected x := by rw [joinStandby]; split <;> rfl
  simp only [Machine.routeWord]
  repeat' split
  · exact (h.offer ..).pairIfMarked ..
  · exact h.offer ..
  · exact h.updService (joined _)
  · exact h

theorem Selects.flushWord (l : LineIx) (h : Selects u m s) : Selects u m (flushWord l s) := by
  rw [Machine.flushWord]
  split
  · exact h
  · exact Selects.routeWord l _ (s := testFirstWord l _ _ _) h

end

/-- R83: a line switch, by the mode of the service. -/
theorem switchLine_eq (v : ServiceIx) (c : Choice) (s : State) :
    let flushed := match attachedLine (s.service v) with
      | some l => flushWord l s
      | none => s
    let turned := flushed.updSel v fun y => { y with choice := c, hold := none, silentNotified := false }
    switchLine v c s = match (s.service v).sel.mode with
      | .live => (mergeStandby v turned).1
      | .script => turned.updSel v fun y =>
          { y with standby := [], standbyDropped := bumpBy y.standbyDropped y.standby.length } := by
  intro flushed turned
  have kept : Selects v (selected (s.service v).sel) flushed := by
    show Selects _ _ (match attachedLine (s.service v) with | some l => flushWord l s | none => s)
    split
    · exact Selects.flushWord _ rfl
    · exact rfl
  have mode : (turned.service v).sel.mode = (s.service v).sel.mode := by
    rw [service_updSel_same]; exact congrArg Prod.fst kept
  show (match (turned.service v).sel.mode with | .live => _ | .script => _) = _
  rw [mode] <;> cases (s.service v).sel.mode <;> rfl

/-- Settles O36: the refusals of R83, the modes, and the two ways a line switch ends. -/
theorem selectTaken : Obligations.SelectTaken := by
  intro p s t b w ready arrives hasBody
  have handled {r : ReplyCode} {u : State} (h : doSelect [b, w] t = { state := u, code := r, body := [] }) :
      exec (.select p) s = .next (replied 11#8 p r [] u) :=
    exec_of_handled (fits := fun n => decide (n = 2)) (handler := doSelect) rfl ready arrives hasBody
      ⟨rfl, by simp⟩ h
  refine ⟨fun high => handled ?_, ?_⟩
  · rw [doSelect, show asFin4 (at1 [b, w] 0) = none from asFin4_eq_none.mpr high]; rfl
  rintro v rfl x
  have own : t.service v = x := arrives.service_eq v
  have moded {m : Mode} (on : x.record.enabled = true) (named : asSelected w = some (.mode m)) :
      exec (.select p) s = .next (replied 11#8 p .ok [] (settle (setMode v m t))) :=
    handled (by rw [doSelect_eq (by rw [own]; exact on) named]; rfl)
  refine ⟨fun bad => handled (doSelect_badValue (by rw [own]; exact bad)), ?_, ?_, ?_, ?_, ?_⟩
  · rintro on rfl script
    rw [moded on rfl, setMode, if_pos (by rw [own]; exact script)]
  · rintro on rfl live
    rw [moded on rfl, setMode, if_pos (by rw [own]; exact live)]
  · rintro on rfl live
    rw [moded on rfl, setMode_script]
    refine congrArg (fun u => Host.Outcome.next (replied 11#8 p .ok [] (settle u))) (updService_congr ?_)
    rw [own, if_neg (by simp [live])]; rfl
  · rintro on rfl script
    rw [moded on rfl, setMode_live]
    refine congrArg (fun u => Host.Outcome.next (replied 11#8 p .ok [] (settle u))) (updService_congr ?_)
    rw [own, if_neg (by simp [script])]; rfl
  · intro c on which named
    have selected : asSelected w = some (.choice c) := by
      simp only [List.mem_cons, Prod.mk.injEq, List.not_mem_nil, or_false] at which
      rcases which with ⟨rfl, rfl⟩ | ⟨rfl, rfl⟩ <;> rfl
    have run := doSelect_eq (s := t) (by rw [own]; exact on) selected
    simp only [own, namedLine_eq] at run
    refine ⟨fun absent => handled ?_, fun present same => handled ?_, ?_⟩
    · rw [run, if_pos (by simpa using absent)]; rfl
    · rw [run, if_neg (by simpa using present), if_pos same]; rfl
    · intro present other flushed turned
      have switched := switchLine_eq v c t
      rw [own] at switched
      have done : exec (.select p) s = .next (replied 11#8 p .ok [] (settle (switchLine v c t))) :=
        handled (by rw [run, if_neg (by simpa using present), if_neg other]; rfl)
      rw [switched] at done
      refine ⟨fun live => ?_, fun script => ?_⟩
      · rw [done]; simp only [live]; rfl
      · rw [done]; simp only [script]; rfl

end Sys2Proof.Machine
end

section
/-! The standby words merged (O37). -/

namespace Sys2Proof.Machine

/-! ### Counts -/

theorem toNat_bump (c : Count) : (bump c).toNat = min 65535 (c.toNat + 1) := by
  have := c.isLt
  rw [bump]
  split
  · next full => subst full; rfl
  · next room =>
    have : c.toNat ≠ 65535 := fun h => room (BitVec.eq_of_toNat_eq h)
    rw [BitVec.toNat_add, show (1 : BitVec 16).toNat = 1 from rfl]
    omega

theorem toNat_bumpBy (c : Count) (n : Nat) : (bumpBy c n).toNat = min 65535 (c.toNat + n) := by
  rw [bumpBy, BitVec.toNat_ofNat]; omega

/-- One count, and then n more, is n + 1 counts. -/
theorem bumpBy_bump (c : Count) (n : Nat) : bumpBy (bump c) n = bumpBy c (n + 1) := by
  apply BitVec.eq_of_toNat_eq
  rw [toNat_bumpBy, toNat_bumpBy, toNat_bump]; omega

theorem bumpBy_zero (c : Count) : bumpBy c 0 = c := by
  have := c.isLt
  apply BitVec.eq_of_toNat_eq
  rw [toNat_bumpBy]; omega

/-! ### Standby words offered one by one (R77) -/

/-- A target frame rests on the queue, the last-left frame, the record, the lines, the delay and PFN. -/
theorem targetFrame_congr {s t : State} {v : ServiceIx} {b : EntryBody} {f : Option Frame}
    (pfn : t.pfn = s.pfn) (device : t.device = s.device) (lines : t.lines = s.lines)
    (record : (t.service v).record = (s.service v).record)
    (queue : (t.service v).sched.queue = (s.service v).sched.queue)
    (lastLeft : (t.service v).sched.lastLeft = (s.service v).sched.lastLeft) :
    targetFrame t v b f = targetFrame s v b f := by
  have line (l : LineIx) : t.line l = s.line l := by rw [State.line, lines]; rfl
  have term : latencyTerm t b = latencyTerm s b := by cases b <;> simp only [latencyTerm, line]
  have prev : prevTarget (t.service v).sched = prevTarget (s.service v).sched := by
    rw [prevTarget, prevTarget, queue, lastLeft]
  rw [targetFrame, targetFrame, rawTarget, rawTarget, pfn, device, record, term, prev]

/-- R77: what the words ws leave that are offered to the queue of v, n of them merged before. -/
structure MergesTo (v : ServiceIx) (s : State) (n : Nat) (ws : List WordRecord) (r : State × Nat) : Prop where
  bodies : (r.1.service v).sched.queue.map Entry.body = (s.service v).sched.queue.map Entry.body ++
    (ws.take (64 - (s.service v).sched.queue.length)).map EntryBody.word
  kept : (r.1.service v).sched.queue.take (s.service v).sched.queue.length = (s.service v).sched.queue
  targets : ∀ (before : List Entry) (e : Entry) (after : List Entry) (w : WordRecord),
    (r.1.service v).sched.queue = before ++ e :: after → (s.service v).sched.queue.length ≤ before.length →
    e.body = .word w →
    e.target = targetFrame (s.updSched v fun y => { y with queue := before }) v (.word w) none
  count : r.2 = n + min (64 - (s.service v).sched.queue.length) ws.length
  frame : r.1 = s.updService v fun y =>
    { y with
      sel := { y.sel with
        mergeLost := bumpBy y.sel.mergeLost (ws.length - (64 - (s.service v).sched.queue.length)) }
      sched := { y.sched with
        queue := (r.1.service v).sched.queue, lastLateness := (r.1.service v).sched.lastLateness
        maxLateness := (r.1.service v).sched.maxLateness
        fullRefusals := bumpBy y.sched.fullRefusals
          (ws.length - (64 - (s.service v).sched.queue.length)) } }

theorem mergesTo_nil (v : ServiceIx) (s : State) (n : Nat) : MergesTo v s n [] (s, n) where
  bodies := by simp
  kept := List.take_length
  targets before e after w h len _ := by
    have := congrArg List.length h
    simp at this
    omega
  count := by simp
  frame := by
    symm
    apply updService_eq_self
    simp only [List.length_nil, Nat.zero_sub, bumpBy_zero]

/-- R77: a word that finds room, and then the words behind it. -/
theorem mergesTo_room {v : ServiceIx} {s : State} {n : Nat} {w : WordRecord} {ws : List WordRecord} {r : State × Nat}
    (room : (s.service v).sched.queue.length < 64)
    (h : MergesTo v (s.updSched v (join (.word w) (targetFrame s v (.word w) none)
      (latenessOf s v (.word w) none))) (n + 1) ws r) : MergesTo v s n (w :: ws) r := by
  obtain ⟨bodies, kept, targets, count, frame⟩ := h
  have own := service_updSched_same s v (join (.word w) (targetFrame s v (.word w) none) (latenessOf s v (.word w) none))
  rw [own] at bodies kept count frame
  simp only [join, List.length_append, List.length_singleton] at bodies kept count frame
  have less : 64 - (s.service v).sched.queue.length = 64 - ((s.service v).sched.queue.length + 1) + 1 := by omega
  refine ⟨?_, ?_, ?_, ?_, ?_⟩
  · rw [bodies, less, List.take_succ_cons]; simp
  · have shorter := congrArg (List.take (s.service v).sched.queue.length) kept
    rwa [List.take_take, Nat.min_eq_left (Nat.le_succ _), List.take_left] at shorter
  · intro before e after w' split len body
    have next : targetFrame ((s.updSched v (join (.word w) (targetFrame s v (.word w) none)
        (latenessOf s v (.word w) none))).updSched v fun y => { y with queue := before }) v (.word w') none =
        targetFrame (s.updSched v fun y => { y with queue := before }) v (.word w') none := by
      apply targetFrame_congr <;> simp only [State.updSched, updService_updService, service_updService_same] <;> rfl
    by_cases first : before.length = (s.service v).sched.queue.length
    · rw [split, ← first, List.take_append, List.take_of_length_le (Nat.le_succ _)] at kept
      simp only [Nat.add_sub_cancel_left, List.take_succ_cons, List.take_zero] at kept
      obtain ⟨rfl, same⟩ := List.append_inj kept first
      obtain rfl : e = { body := .word w, target := targetFrame s v (.word w) none } := (List.cons.inj same).1
      obtain rfl : w = w' := EntryBody.word.inj body
      change targetFrame s v (.word w) none = _
      apply targetFrame_congr <;> simp only [State.updSched, service_updService_same] <;> rfl
    · rw [← next]
      refine targets before e after w' split ?_ body
      rw [own]
      simp only [join, List.length_append, List.length_singleton]
      omega
  · rw [count, List.length_cons]; omega
  · refine frame.trans ?_
    rw [State.updSched, updService_updService]
    apply updService_congr
    have lost : ws.length - (64 - ((s.service v).sched.queue.length + 1)) =
        (w :: ws).length - (64 - (s.service v).sched.queue.length) := by rw [List.length_cons]; omega
    rw [lost]; rfl

/-- R77: a word that finds the queue full is lost and counted, and the words behind it too. -/
theorem mergesTo_full {v : ServiceIx} {s : State} {n : Nat} {w : WordRecord} {ws : List WordRecord} {r : State × Nat}
    (full : 64 ≤ (s.service v).sched.queue.length)
    (h : MergesTo v ((s.updSched v fun q => { q with fullRefusals := bump q.fullRefusals }).updSel v fun x =>
      { x with mergeLost := bump x.mergeLost }) n ws r) : MergesTo v s n (w :: ws) r := by
  obtain ⟨bodies, kept, targets, count, frame⟩ := h
  have one : ((s.updSched v fun q => { q with fullRefusals := bump q.fullRefusals }).updSel v fun x =>
      { x with mergeLost := bump x.mergeLost }) = s.updService v fun y =>
        { y with
          sel := { y.sel with mergeLost := bump y.sel.mergeLost }
          sched := { y.sched with fullRefusals := bump y.sched.fullRefusals } } := by
    rw [State.updSel, State.updSched, updService_updService]
  rw [one] at bodies kept targets count frame
  simp only [service_updService_same] at bodies kept targets count frame
  have none : 64 - (s.service v).sched.queue.length = 0 := by omega
  rw [none] at bodies count frame
  refine ⟨?_, kept, fun before e after w' split len body => ?_, ?_, ?_⟩
  · rw [none]; exact bodies
  · refine (targets before e after w' split len body).trans ?_
    apply targetFrame_congr <;> simp only [State.updSched, updService_updService, service_updService_same] <;> rfl
  · rw [none, count]; simp
  · refine frame.trans ?_
    rw [updService_updService]
    apply updService_congr
    rw [none]
    simp only [bumpBy_bump, Nat.sub_zero, List.length_cons]

theorem mergesTo_foldl (v : ServiceIx) (ws : List WordRecord) (s : State) (n : Nat) :
    MergesTo v s n ws (ws.foldl (mergeOne v) (s, n)) := by
  induction ws generalizing s n with
  | nil => exact mergesTo_nil v s n
  | cons w ws ih =>
    rw [List.foldl_cons, mergeOne, offer]
    by_cases room : hasRoom (s.service v).sched = true
    · rw [if_pos room]
      exact mergesTo_room (hasRoom_iff.mp room) (ih _ _)
    · rw [if_neg room]
      exact mergesTo_full (not_lt.mp (hasRoom_iff.not.mp room)) (ih _ _)

/-- Settles O37: the words offered one by one to the queue, from the state with the hold empty. -/
theorem standbyMerged : Obligations.StandbyMerged := by
  intro v s _ x u q room lost
  have merged := mergesTo_foldl v x.sel.standby (s.updSel v fun y => { y with standby := [] }) 0
  have own : (s.updSel v fun y => { y with standby := [] }).service v = { x with sel := { x.sel with standby := [] } } :=
    service_updSel_same ..
  obtain ⟨bodies, kept, targets, count, frame⟩ := merged
  change u.2 = _ at count
  change u.1 = _ at frame
  rw [own] at bodies kept targets count frame
  refine ⟨bodies, kept, fun before e after w split len body => ?_, ?_, ?_⟩
  · refine (targets before e after w split len body).trans ?_
    apply targetFrame_congr <;>
      simp only [State.updSel, State.updSched, updService_updService, service_updService_same] <;> rfl
  · rw [count, Nat.zero_add]
  · refine frame.trans ?_
    rw [State.updSel, updService_updService]
    apply updService_congr
    rfl

end Sys2Proof.Machine
end

section
/-! CLEAR, RESTART, SOFT_RESET and the report queue (O38, O39, O40, O42). -/

namespace Sys2Proof.Machine

/-! ### CLEAR and RESTART -/

/-- Settles O38: the refusals of R153, and what clearService does to the service. -/
theorem clearTaken : Obligations.ClearTaken := by
  intro p s t b ready arrives hasBody
  have handled {r : ReplyCode} {u : State} (h : doClear [b] t = { state := u, code := r, body := [] }) :
      exec (.clear p) s = .next (replied 12#8 p r [] u) :=
    exec_of_handled (fits := fun n => decide (n = 1)) (handler := doClear) rfl ready arrives hasBody
      ⟨rfl, by simp⟩ h
  refine ⟨fun high => handled ?_, ?_⟩
  · rw [doClear, show asFin4 (at1 [b] 0) = none from asFin4_eq_none.mpr high]; rfl
  rintro v rfl
  have own := arrives.service_eq v
  have run : doClear [byte1 v.val] t =
      if (t.service v).record.enabled = false then refuse .badValue t
      else accept .ok (settle (clearService v t)) := by
    rw [doClear, show asFin4 (at1 [byte1 v.val] 0) = some v from asFin4_byte1 v]
  refine ⟨fun off => handled ?_, fun on => handled ?_⟩
  · rw [run, if_pos (by rw [own]; exact off)]; rfl
  · rw [run, if_neg (by rw [own, on]; decide), clearService, State.updOm, State.updCb, updService_updService]
    rfl

theorem restartLine_fields (v : ServiceIx) (x : Line) :
    let waits := x.asm.held.map Held.on = some v
    let taken := x.asm.retracted.map Retracted.service = some v
    restartLine v x =
      { x with
        asm := { x.asm with
          held := if waits then none else x.asm.held
          clearPending := if waits then none else x.asm.clearPending
          retryOwed := if waits then false else x.asm.retryOwed
          retracted := if taken then none else x.asm.retracted }
        lat := { x.lat with firstWord := if waits then false else x.lat.firstWord } } := by
  intro waits taken
  rw [restartLine_eq, freedFrom, forgetting]
  by_cases w : waits
  · rw [if_pos w, if_pos w]
    by_cases r : taken
    · rw [if_pos r]; simp only [if_pos w, if_pos r]
    · rw [if_neg r]; simp only [if_pos w, if_neg r]
  · rw [if_neg w, if_neg w]
    by_cases r : taken
    · rw [if_pos r]; simp only [if_neg w, if_pos r]
    · rw [if_neg r]; simp only [if_neg w, if_neg r]

/-- Settles O39: restartService, service by service and line by line. -/
theorem restartTaken : Obligations.RestartTaken := by
  intro p s t b ready arrives hasBody
  have handled {r : ReplyCode} {u : State} (h : doRestart [b] t = { state := u, code := r, body := [] }) :
      exec (.restart p) s = .next (replied 13#8 p r [] u) :=
    exec_of_handled (fits := fun n => decide (n = 1)) (handler := doRestart) rfl ready arrives hasBody
      ⟨rfl, by simp⟩ h
  refine ⟨fun high => handled ?_, ?_⟩
  · rw [doRestart, show asFin4 (at1 [b] 0) = none from asFin4_eq_none.mpr high]; rfl
  rintro v rfl
  have own := arrives.service_eq v
  have run : doRestart [byte1 v.val] t =
      if (t.service v).record.enabled = false then accept .ok t
      else accept .ok (settle (restartService v t)) := by
    rw [doRestart, show asFin4 (at1 [byte1 v.val] 0) = some v from asFin4_byte1 v]
  refine ⟨fun off => handled ?_, fun on => ⟨restartService v t, handled ?_, ?_, fun w other => ?_, fun l => ?_, rfl⟩⟩
  · rw [run, if_pos (by rw [own]; exact off)]; rfl
  · rw [run, if_neg (by rw [own, on]; decide)]; rfl
  · show (t.updService v restartedService).service v = _
    rw [service_updService_same, own]; rfl
  · show (t.updService v restartedService).service w = _
    rw [service_updService_ne _ _ other, arrives.service_eq]
  · show (t.lines.map (restartLine v)).get l = _
    rw [Quad.get_map]
    show restartLine v (t.line l) = _
    rw [arrives.line_eq, restartLine_fields]

/-! ### SOFT_RESET (R159) -/

theorem setXoff_false (x : Line) :
    setXoff false x = { x with
      xoff := false
      sending := if x.sending = none ∧ x.lastSent = .xoff then
          some { byte := .xon, rate := x.record.rate, dataBits := x.record.dataBits, parity := x.record.parity }
        else x.sending } := by
  rw [setXoff, transmit]
  cases x.sending <;> cases x.lastSent <;> simp [calledFor]

/-- Settles O40: softReset, part by part, with the reply alone in the report queue. -/
theorem softResetTaken : Obligations.SoftResetTaken := by
  intro p s t ready arrives len
  have body : p.body.take p.len.toNat = [] := by rw [len]; rfl
  have run : exec (.softReset p) s =
      .next ((softReset t).updCi (joinReply (.reply p.tag 14#8 .ok []))) := by
    show Host.Outcome.next (softResetArrival p s) = _
    rw [softResetArrival_of_arrives ready arrives, interpret, if_pos (by rw [lengthFits, len]; simp)]
    rfl
  refine ⟨_, run, rfl, fun l => ?_, fun i => ?_, fun v => ?_, rfl⟩
  · show (t.lines.map (softLine t.pfn)).get l = _
    rw [Quad.get_map]
    show softLine t.pfn (t.line l) = _
    rw [arrives.line_eq, show t.pfn = s.pfn by rw [arrives.same], softLine, setXoff_false]
    rfl
  · show (t.inputs.map softInput).get i = _
    rw [Oct.get_map, show t.inputs = s.inputs by rw [arrives.same]]; rfl
  · show (t.services.map fun x => softCounts (restartedService x)).get v = _
    rw [Quad.get_map]
    show softCounts (restartedService (t.service v)) = _
    rw [arrives.service_eq]; rfl

/-! ### The report queue (R155, R156) -/

theorem withoutYoungestNotice_none {rs : List Report} (h : ∀ x ∈ rs, isNotice x = false) :
    withoutYoungestNotice rs = none := by
  induction rs with
  | nil => rfl
  | cons r rs ih =>
    rw [withoutYoungestNotice, ih fun x hx => h x (List.mem_cons_of_mem _ hx)]
    dsimp only
    rw [h r List.mem_cons_self]; rfl

theorem withoutYoungestNotice_split {older younger : List Report} {n : Notice}
    (h : ∀ x ∈ younger, isNotice x = false) :
    withoutYoungestNotice (older ++ .notice n :: younger) = some (older ++ younger) := by
  induction older with
  | nil => rw [List.nil_append, withoutYoungestNotice, withoutYoungestNotice_none h]; rfl
  | cons r older ih => rw [List.cons_append, withoutYoungestNotice, ih]; rfl

/-- Settles O42: the queue below 16 reports, and full with and without a notice. -/
theorem reportsJoin : Obligations.ReportsJoin := by
  have capacity : Config.reportCapacity = 16 := rfl
  intro c
  refine ⟨fun r => ⟨fun room => ?_, fun older n younger full split none => ?_, fun full none => ?_⟩,
    fun n => ⟨fun room => ?_, fun full => ?_⟩, fun k => ?_⟩
  · rw [joinReply, if_pos (by rw [capacity]; exact room)]
  · rw [joinReply, if_neg (by rw [capacity]; omega), split, withoutYoungestNotice_split none]
  · rw [joinReply, if_neg (by rw [capacity]; omega), withoutYoungestNotice_none none]
  · rw [joinNotice, if_pos (by rw [capacity]; exact room)]
  · rw [joinNotice, if_neg (by rw [capacity]; omega)]
  · apply BitVec.eq_of_toNat_eq
    rw [toNat_bump, BitVec.toNat_ofNat]; omega

end Sys2Proof.Machine
end

section
/-! QUERY (O41): the bodies byte by byte, their length, and the query answered. -/

namespace Sys2Proof.Machine

/-! ### The length of a body -/

theorem length_optional_le {α : Type} {f : α → List Byte} {n : Nat} (h : ∀ x, (f x).length ≤ n) (o : Option α) :
    (optional f o).length ≤ 1 + n := by
  cases o with
  | none => exact Nat.le_add_right 1 n
  | some x =>
    rw [optional, List.length_cons]
    have := h x
    omega

theorem length_bytes2 (n : Nat) : (bytes2 n).length = 2 := rfl
theorem length_bytes4 (f : BitVec 32) : (bytes4 f).length = 4 := rfl
theorem length_countBytes (c : Count) : (countBytes c).length = 2 := rfl

theorem length_optFrame_le (o : Option Frame) : (optFrame o).length ≤ 5 :=
  length_optional_le (fun f => (length_bytes4 f).le) o

theorem length_flatMap_le {α : Type} {f : α → List Byte} {n : Nat} (h : ∀ x, (f x).length ≤ n) (xs : List α) :
    (xs.flatMap f).length ≤ n * xs.length := by
  induction xs with
  | nil => simp
  | cons x xs ih =>
    rw [List.flatMap_cons, List.length_append, List.length_cons, Nat.mul_succ]
    have := h x
    omega

theorem length_inputBytes_le (x : Input) : (inputBytes x).length ≤ 11 := by
  have accepted := length_optional_le (f := fun b => [flagByte b]) (n := 1) (fun _ => le_refl _) x.accepted
  simp only [inputBytes, List.length_append, List.length_cons, List.length_nil, length_countBytes]
  omega

theorem length_deviceBody_le (s : State) : (deviceBody s).length ≤ 240 := by
  have inputs := length_flatMap_le (fun i => length_inputBytes_le (s.input i)) eights
  have pending := length_optional_le (f := slotMapBytes) (n := 12) (fun m => by simp [slotMapBytes]) s.pendingMap
  simp only [deviceBody, List.length_append, List.length_cons, List.length_nil, length_bytes2, length_bytes4,
    length_countBytes, List.length_map, slotMapBytes, Vector.length_toList] at *
  simp only [show eights.length = 8 from rfl, show fours.length = 4 from rfl] at *
  omega

theorem length_lineBody_le (x : Line) :
    (lineBody x ++ assemblerBody x ++ latencyBody x).length ≤ 240 := by
  have first := length_optFrame_le x.asm.first
  have retracted := length_optional_le (f := fun r : Retracted => bytes4 r.arrival ++ bytes4 r.floor) (n := 8)
    (fun _ => le_refl _) x.asm.retracted
  have held := length_optional_le (f := fun h : Held => [heldKindByte h.item]) (n := 1) (fun _ => le_refl _)
    x.asm.held
  have sample := length_optional_le (f := bytes2) (n := 2) (fun _ => le_refl _) x.lat.lastSample
  have completion := length_optFrame_le x.lat.lastCompletion
  simp only [lineBody, assemblerBody, latencyBody, List.length_append, List.length_cons, List.length_nil,
    length_bytes2, length_bytes4, length_countBytes] at *
  omega

theorem length_counted_le {α : Type} {f : α → List Byte} {n : Nat} (h : ∀ x, (f x).length ≤ n) (xs : List α) :
    (counted f xs).length ≤ 1 + n * xs.length := by
  rw [counted, List.length_cons]
  have := length_flatMap_le h xs
  omega

theorem length_selectionBody_le {x : Service} (fits : ServiceFits x) : (selectionBody x).length ≤ 240 := by
  have standby := length_counted_le (f := standbyBytes) (n := 6) (fun _ => le_refl _) x.sel.standby
  have onsets := length_counted_le (f := bytes4) (n := 4) (fun _ => le_refl _) x.onsets.frames
  have hold := length_optFrame_le x.sel.hold
  have words : x.sel.standby.length ≤ 8 := fits.standby
  have frames : x.onsets.frames.length ≤ 8 := fits.onsets
  simp only [selectionBody, recordBytes, List.length_append, List.length_cons, List.length_nil, length_bytes2,
    length_countBytes]
  omega

theorem length_runnerBody_le (s : State) (v : ServiceIx) :
    (runnerBody s v ++ schedulerBody (s.service v).sched).length ≤ 240 := by
  have story := length_optional_le (f := fun k : Nat => [byte1 k]) (n := 1) (fun _ => le_refl _)
    (s.service v).runner.story
  have pointer := length_optional_le (f := bytes2) (n := 2) (fun _ => le_refl _) (pointerCue s (s.service v).runner)
  have lastCue := length_optFrame_le (s.service v).runner.lastCueT
  have base := length_optFrame_le (s.service v).runner.nextBase
  have dueAt := length_optFrame_le ((s.service v).runner.nextBase.map (dueFrame s v))
  have head := length_optional_le
    (f := fun e : Entry => [entryKindByte e.body, entrySource e.body] ++ bytes4 e.target) (n := 6)
    (fun _ => le_refl _) (s.service v).sched.queue.head?
  have tail := length_optional_le (f := fun e : Entry => entryKindByte e.body :: bytes4 e.target) (n := 5)
    (fun _ => le_refl _) (s.service v).sched.queue.getLast?
  have left := length_optFrame_le (s.service v).sched.lastLeft
  simp only [runnerBody, schedulerBody, List.length_append, List.length_cons, List.length_nil, length_bytes2,
    length_countBytes]
  omega

theorem length_blockBytes_le (b : Block) : (blockBytes b).length ≤ 6 := by
  cases b with
  | text y => exact Nat.succ_le_succ (length_optFrame_le (some y.showFrame))
  | clearOnly => exact Nat.succ_le_succ (length_optFrame_le none)

theorem length_timerBytes_le (t : DmaxTimer) : (timerBytes t).length ≤ 6 := by
  cases t with
  | idle => exact Nat.succ_le_succ (length_optFrame_le none)
  | waiting => exact Nat.succ_le_succ (length_optFrame_le none)
  | running f => exact Nat.succ_le_succ (length_optFrame_le (some f))

/-- The bytes of the head unit of an output FIFO. -/
theorem length_unit_le (u : OutUnit) : (byte1 (kindCode u.kind) :: optFrame u.notBefore ++
    optional (fun k => [byte1 k]) u.story).length ≤ 8 := by
  have before := length_optFrame_le u.notBefore
  have story := length_optional_le (f := fun k : Nat => [byte1 k]) (n := 1) (fun _ => le_refl _) u.story
  simp only [List.length_append, List.length_cons]
  omega

theorem length_builderBody_le (x : Service) : (builderBody x.cb ++ carriageBody x.om).length ≤ 240 := by
  have release := length_optFrame_le x.cb.lastRelease
  have first := length_optFrame_le (tFirst x.cb.openBlock)
  have cue := length_optional_le (f := fun c : Formation => byte1 c.story :: bytes2 c.index ++
    [byte1 (c.groups.map List.length).sum]) (n := 4) (fun _ => le_refl _) x.cb.cue
  have head := length_optional_le length_blockBytes_le x.cb.blocks.head?
  have shown := length_optional_le (f := fun p : Frame × Nat => bytes4 p.1 ++ bytes2 p.2) (n := 6)
    (fun _ => le_refl _) x.cb.shown
  have timer := length_timerBytes_le x.cb.timer
  have unit := length_optional_le length_unit_le x.om.fifo.head?
  simp only [builderBody, carriageBody, List.length_append, List.length_cons, List.length_nil, length_bytes2,
    length_countBytes]
  omega

theorem length_storyBody_le (s : State) (k : Nat) : (storyBody s k).length ≤ 240 := by
  have fields (st : Story) : (storyFields st).length ≤ 12 := by
    have ring := length_optional_le (f := fun r : Nat => [byte1 r]) (n := 1) (fun _ => le_refl _) st.ring
    have next := length_optional_le (f := fun r : Nat => [byte1 r]) (n := 1) (fun _ => le_refl _) st.next
    simp only [storyFields, List.length_append, List.length_cons, List.length_nil, length_bytes2]
    omega
  have story := length_optional_le fields (storeGet k s.stories)
  have holder := length_optional_le (f := fun v : ServiceIx => [byte1 v.val]) (n := 1) (fun _ => le_refl _)
    (holderOf s k)
  simp only [storyBody, List.length_append, List.length_cons, List.length_nil]
  omega

/-- A record that is read from a store stands in it. -/
theorem mem_of_storeGet {α : Type} {k : Nat} {x : α} {m : List (Nat × α)} (h : storeGet k m = some x) :
    (k, x) ∈ m := by
  induction m with
  | nil => simp [storeGet] at h
  | cons p m ih =>
    rw [storeGet] at h
    split at h
    · next same =>
      obtain rfl := Option.some.inj h
      rw [← same]; exact List.mem_cons_self
    · exact List.mem_cons_of_mem _ (ih h)

theorem length_cueBody_le {s : State} (formed : StoreFormed s) (k : Nat) : (cueBody s k).length ≤ 240 := by
  obtain ⟨-, -, short⟩ := formed
  rw [cueBody]
  cases loaded : storeGet k s.cues with
  | none => decide
  | some c =>
    have text : c.text.length ≤ 116 := short _ (mem_of_storeGet loaded)
    have bytes : (c.text.flatMap fun b => [b]).length ≤ 1 * c.text.length :=
      length_flatMap_le (f := fun b : Byte => [b]) (fun _ => le_refl _) c.text
    simp only [optional, counted, List.length_append, List.length_cons, List.length_nil, length_bytes2]
    omega

/-! ### The query answered -/

/-- R154: what a QUERY whose target, part and index are known answers. -/
theorem doQuery_eq {b i1 i0 part : Byte} {q : QueryTarget} (s : State) (target : asTarget b = some q) :
    doQuery [b, i1, i0, part] s =
      if !partKnown q part.toNat then refuse .badValue s
      else if indexBad q (256 * i1.toNat + i0.toNat) then refuse .badIndex s
      else { state := queryClears q (256 * i1.toNat + i0.toNat) part.toNat s, code := .ok,
             body := queryBody q (256 * i1.toNat + i0.toNat) part.toNat s } := by
  rw [doQuery, show asTarget (at1 [b, i1, i0, part] 0) = some q from target]; rfl

theorem asTarget_eq_none {b : Byte} : asTarget b = none ↔ 4 < b.toNat := by
  rw [asTarget]; split <;> simp_all; omega

theorem asTarget_service {b : Byte} : asTarget b = some .service ↔ b = 2#8 := by
  constructor
  · intro h
    rw [asTarget] at h
    split at h <;> simp_all
    bv_omega
  · rintro rfl; rfl

/-- R154: the part of a target that the table does not give. -/
theorem partKnown_eq_false {b part : Byte} {q : QueryTarget} (target : asTarget b = some q)
    (bad : b ≠ 2#8 ∧ part ≠ 0#8 ∨ 2 < part.toNat) : partKnown q part.toNat = false := by
  have nonzero : part.toNat ≠ 0 := by rcases bad with h | h <;> bv_omega
  by_cases service : q = .service
  · subst service
    have : b = 2#8 := asTarget_service.mp target
    have far : 2 < part.toNat := bad.resolve_left fun h => h.1 this
    exact decide_eq_false (not_le.mpr far)
  · cases q <;> simp_all [partKnown]

theorem query_answered (p : Request) (s t : State) (b i1 i0 part : Byte) (ready : Ready s)
    (arrives : Arrives 15#8 p s t) (hasBody : HasBody p [b, i1, i0, part]) :
    let ix := 256 * i1.toNat + i0.toNat
    (4 < b.toNat ∨ b ≠ 2#8 ∧ part ≠ 0#8 ∨ 2 < part.toNat →
      exec (.query p) s = .next (replied 15#8 p .badValue [] t)) ∧
    (∀ last : Nat, (b, last) ∈ [(1#8, 3), (2#8, 3), (3#8, 63), (4#8, 511)] →
      (part = 0#8 ∨ b = 2#8 ∧ part.toNat ≤ 2) → last < ix →
      exec (.query p) s = .next (replied 15#8 p .badIndex [] t)) ∧
    (b = 0#8 → part = 0#8 → exec (.query p) s = .next (replied 15#8 p .ok (deviceBody t)
      { t with ci := { t.ci with droppedNotice := false } })) ∧
    (∀ l : LineIx, b = 1#8 → part = 0#8 → ix = l.val →
      exec (.query p) s = .next (replied 15#8 p .ok
        (lineBody (s.line l) ++ assemblerBody (s.line l) ++ latencyBody (s.line l)) t)) ∧
    (∀ v : ServiceIx, b = 2#8 → ix = v.val →
      (part = 0#8 → exec (.query p) s = .next (replied 15#8 p .ok (selectionBody (s.service v)) t)) ∧
      (part = 1#8 → exec (.query p) s = .next (replied 15#8 p .ok
        (runnerBody s v ++ schedulerBody (s.service v).sched)
        (t.updSched v fun q => { q with maxLateness := 0, maxLag := 0 }))) ∧
      (part = 2#8 → exec (.query p) s = .next (replied 15#8 p .ok
        (builderBody (s.service v).cb ++ carriageBody (s.service v).om) t))) ∧
    (b = 3#8 → part = 0#8 → ix ≤ 63 → exec (.query p) s = .next (replied 15#8 p .ok (storyBody s ix) t)) ∧
    (b = 4#8 → part = 0#8 → ix ≤ 511 → exec (.query p) s = .next (replied 15#8 p .ok (cueBody s ix) t)) := by
  intro ix
  have handled {r : ReplyCode} {u : State} {body : List Byte}
      (h : doQuery [b, i1, i0, part] t = { state := u, code := r, body := body }) :
      exec (.query p) s = .next (replied 15#8 p r body u) :=
    exec_of_handled (fits := fun n => decide (n = 4)) (handler := doQuery) rfl ready arrives hasBody
      ⟨rfl, by simp⟩ h
  have known {q : QueryTarget} (target : asTarget b = some q) (part_ : partKnown q part.toNat = true)
      (index : indexBad q ix = false) :
      exec (.query p) s = .next (replied 15#8 p .ok (queryBody q ix part.toNat t) (queryClears q ix part.toNat t)) :=
    handled (by rw [doQuery_eq t target, part_, index]; rfl)
  have ixEq {l : Fin 4} (h : ix = l.val) : ix4 ix = l ∧ ¬ 3 < ix := by
    refine ⟨?_, by omega⟩
    rw [h]; exact Fin.ext (Nat.mod_eq_of_lt l.isLt)
  refine ⟨fun bad => handled ?_, fun last which part_ far => handled ?_, ?_, ?_, ?_, ?_, ?_⟩
  · cases target : asTarget b with
    | none => rw [doQuery, show asTarget (at1 [b, i1, i0, part] 0) = none from target]; rfl
    | some q =>
      have low : ¬ 4 < b.toNat := asTarget_eq_none.not.mp (by simp [target])
      rw [doQuery_eq t target, partKnown_eq_false target (bad.resolve_left low)]; rfl
  · have refused {q : QueryTarget} (target : asTarget b = some q) (part' : partKnown q part.toNat = true)
        (beyond : indexBad q ix = true) : doQuery [b, i1, i0, part] t = refuse .badIndex t := by
      rw [doQuery_eq t target, part', beyond]; rfl
    simp only [List.mem_cons, Prod.mk.injEq, List.not_mem_nil, or_false] at which
    rcases which with ⟨rfl, rfl⟩ | ⟨rfl, rfl⟩ | ⟨rfl, rfl⟩ | ⟨rfl, rfl⟩
    · obtain rfl := part_.resolve_right (by simp)
      exact refused rfl rfl (decide_eq_true far)
    · exact refused rfl (decide_eq_true (by rcases part_ with rfl | ⟨-, h⟩ <;> simp_all)) (decide_eq_true far)
    · obtain rfl := part_.resolve_right (by simp)
      exact refused rfl rfl (decide_eq_true far)
    · obtain rfl := part_.resolve_right (by simp)
      exact refused rfl rfl (decide_eq_true far)
  · rintro rfl rfl
    exact known rfl rfl rfl
  · rintro l rfl rfl here
    obtain ⟨named, low⟩ := ixEq here
    rw [known rfl rfl (decide_eq_false low), queryBody, named]
    simp only [arrives.line_eq]; rfl
  · rintro v rfl here
    obtain ⟨named, low⟩ := ixEq here
    refine ⟨?_, ?_, ?_⟩
    · rintro rfl
      rw [known rfl rfl (decide_eq_false low), queryBody, named, arrives.service_eq]; rfl
    · rintro rfl
      rw [known rfl rfl (decide_eq_false low), queryBody, queryClears, named]
      obtain ⟨o, rfl⟩ := arrives.eq_out
      rfl
    · rintro rfl
      rw [known rfl rfl (decide_eq_false low), queryBody, named, arrives.service_eq]; rfl
  · rintro rfl rfl low
    rw [known rfl rfl (decide_eq_false (not_lt.mpr low))]
    obtain ⟨o, rfl⟩ := arrives.eq_out
    rfl
  · rintro rfl rfl low
    rw [known rfl rfl (decide_eq_false (not_lt.mpr low))]
    obtain ⟨o, rfl⟩ := arrives.eq_out
    rfl

/-- Settles O41: the bodies written byte by byte are those of the model, and none is too long. -/
theorem queryTaken : Obligations.QueryTaken := by
  unfold Obligations.QueryTaken
  intro one two four count flag name opt items place map device line selection kind source running building story cue
  have hone (n : Nat) : one n = [byte1 n] := rfl
  have htwo (n : Nat) : two n = bytes2 n := rfl
  have hfour (x : BitVec 32) : four x = bytes4 x := rfl
  have hcount (c : Count) : count c = countBytes c := rfl
  have hflag (b : Bool) : flag b = [flagByte b] := rfl
  have hname (l : Option (Fin 4)) : name l = [lineByte l] := by cases l <;> rfl
  have hopt {α : Type} (f : α → List Byte) (o : Option α) : opt f o = optional f o := by cases o <;> rfl
  have hitems {α : Type} (f : α → List Byte) (xs : List α) : items f xs = counted f xs := rfl
  have hmap (m : SlotMap) : map m = slotMapBytes m := by
    show m.toList.flatMap name = m.toList.map lineByte
    rw [show name = fun l => [lineByte l] from funext hname]
    exact List.flatMap_pure_eq_map lineByte m.toList
  have href (r : RefState) : place [RefState.seeking, .locked, .freewheel] r = [refByte r] := by cases r <;> rfl
  have hfun (f : GpiFunction) : place [GpiFunction.none, .onset, .cue, .mode, .mute, .clear] f = [functionByte f] := by
    cases f <;> rfl
  have hmap' : map = slotMapBytes := funext hmap
  have hdevice (s : State) : device s = deviceBody s := by
    simp only [device, hone, htwo, hfour, hcount, hflag, hopt, hmap', href, hfun, deviceBody, inputBytes,
      List.append_assoc, List.cons_append, List.nil_append]
    cases s.device.fps <;> rfl
  have hrate (r : LineRate) : place [LineRate.r1200, .r2400, .r4800, .r9600, .r19200, .r38400] r = [rateByte r] := by
    cases r <;> rfl
  have hparity (q : Parity) : place [Parity.none, .odd, .even] q = [parityByte q] := by cases q <;> rfl
  have hbits (d : DataBits) : one (if d = .seven then 7 else 8) = [dataBitsByte d] := by cases d <;> rfl
  have hflow (b : FlowByte) : one (if b = .xon then 0x11 else 0x13) = [flowByte b] := by cases b <;> rfl
  have hline (x : Line) : line x = lineBody x ++ assemblerBody x ++ latencyBody x := by
    have held : opt (fun h : Held => match h.item with
        | .word _ => one 0
        | .marker _ => one 1) x.asm.held = optional (fun h => [heldKindByte h.item]) x.asm.held := by
      rcases x.asm.held with _ | ⟨_ | _, _⟩ <;> rfl
    simp only [line, hrate, hparity, hbits, hflow, hone, htwo, hfour, hcount, hflag, hopt, lineBody, assemblerBody,
      latencyBody, lsel, optFrame, List.append_assoc, List.cons_append, List.nil_append]
    rcases x.asm.held with _ | ⟨_ | _, _⟩ <;> rfl
  have hdisplay (d : Display) : place [Display.rollUp, .popOn] d = [displayByte d] := by cases d <;> rfl
  have hmode (m : Mode) : place [Mode.live, .script] m = [modeByte m] := by cases m <;> rfl
  have hchoice (c : Choice) : place [Choice.primary, .backup] c = [choiceByte c] := by cases c <;> rfl
  have hattached (x : Service) :
      (if x.sel.choice = .primary then x.record.primary else x.record.backup) = attachedLine x := by
    rw [attachedLine]; cases x.sel.choice <;> rfl
  have hselection (x : Service) : selection x = selectionBody x := by
    simp only [selection, hdisplay, hmode, hchoice, hattached, hname, hitems, hone, htwo, hfour, hcount, hflag, hopt,
      selectionBody, recordBytes, optFrame, List.append_assoc, List.cons_append, List.nil_append]
    rfl
  have hkind (e : Entry) : kind e = [entryKindByte e.body] := by
    obtain ⟨_ | _ | _, _⟩ := e <;> rfl
  have hsource (e : Entry) : source e = [entrySource e.body] := by
    obtain ⟨_ | _ | _, _⟩ := e <;> rfl
  have hphase (q : Phase) : place [Phase.idle, .armed, .running, .suspended, .draining] q = [phaseByte q] := by
    cases q <;> rfl
  have hrunning (s : State) (v : ServiceIx) :
      running s v = runnerBody s v ++ schedulerBody (s.service v).sched := by
    have pointer : ((s.service v).runner.story.bind fun k => storeGet k s.stories).map
        (fun st => st.first + (s.service v).runner.pointer) = pointerCue s (s.service v).runner := by
      rw [pointerCue]; cases (s.service v).runner.story <;> rfl
    have hdue (o : Option Frame) :
        optional (fun base => bytes4 (base - BitVec.ofInt 32 (s.device.delay + (s.service v).record.sofs))) o =
          optional bytes4 (o.map (dueFrame s v)) := by
      cases o with
      | none => rfl
      | some base => rw [Option.map_some, dueFrame, moved, BitVec.ofInt_neg, ← BitVec.sub_eq_add_neg]; rfl
    simp only [running, pointer, hphase, hkind, hsource, hone, htwo, hfour, hcount, hflag, hopt, hdue, runnerBody,
      schedulerBody, optFrame, List.append_assoc, List.cons_append, List.nil_append]
    rfl
  have hform (f : Form) : place [Form.none, .rolling, .block] f = [formByte f] := by cases f <;> rfl
  have hbuilding (x : Service) : building x = builderBody x.cb ++ carriageBody x.om := by
    have first (o : Option Placed) : optional (fun p => bytes4 p.target) o = optional bytes4 (o.map Placed.target) := by
      cases o <;> rfl
    simp only [building, first, hform, hone, htwo, hfour, hcount, hflag, hopt, builderBody, carriageBody, optFrame,
      List.append_assoc, List.cons_append, List.nil_append]
    rfl
  have hadvance (a : Advance) : place [Advance.triggered, .timed] a = [advanceByte a] := by cases a <;> rfl
  have haction (a : EndAction) : place [EndAction.live, .hold, .next] a = [endActionByte a] := by cases a <;> rfl
  have hholder (s : State) (k : Nat) : ([0, 1, 2, 3].find? fun v =>
      (s.service v).runner.phase ≠ .idle && (s.service v).runner.story = some k) = holderOf s k := by
    refine congrArg (fun q => List.find? q fours) (funext fun v => ?_)
    rw [Bool.eq_iff_iff, holdsStory_iff, Bool.and_eq_true, decide_eq_true_iff, decide_eq_true_iff]
  have hstory (s : State) (k : Nat) : story s k = storyBody s k := by
    simp only [story, hadvance, haction, hholder, hone, htwo, hflag, hopt, storyBody, List.append_assoc, List.cons_append,
      List.nil_append]
    cases storeGet k s.stories with
    | none => rfl
    | some st =>
      simp only [optional, storyFields, List.append_assoc, List.cons_append, List.nil_append]
      rfl
  have hcue (s : State) (k : Nat) : cue s k = cueBody s k := by
    simp only [cue, hone, htwo, hflag, hopt, cueBody, counted, List.flatMap_singleton',
      List.cons_append, List.nil_append]
  refine ⟨fun s fits formed => ⟨?_, fun l => ?_, fun v => ⟨?_, ?_, ?_⟩, fun k => ⟨?_, ?_⟩⟩,
    fun s k => storyComplete_iff, ?_⟩
  · rw [hdevice]; exact length_deviceBody_le s
  · rw [hline]; exact length_lineBody_le _
  · rw [hselection]; exact length_selectionBody_le (fits.services v)
  · rw [hrunning]; exact length_runnerBody_le s v
  · rw [hbuilding]; exact length_builderBody_le _
  · rw [hstory]; exact length_storyBody_le s k
  · rw [hcue]; exact length_cueBody_le formed k
  · simp only [hdevice, hline, hselection, hrunning, hbuilding, hstory, hcue]
    exact query_answered

end Sys2Proof.Machine
end

section
/-! Target frames, show frames and rows (O44, O45, O46). -/

namespace Sys2Proof.Machine

/-! ### Frame numbers near a frame (R3) -/

/-- A frame number within 2^20 frames of p. -/
def Near (p f : Frame) : Prop := (frameDiff p f).natAbs ≤ 1048576

section

variable {p a b : Frame}

/-- The distance of two frames near p is the difference of their distances from p. -/
theorem Near.frameDiff_eq (ha : Near p a) (hb : Near p b) : frameDiff a b = frameDiff p b - frameDiff p a := by
  have apart : b - a = (b - p) - (a - p) := by bv_omega
  rw [frameDiff, apart, BitVec.toInt_sub, Int.bmod_eq_of_le]
  · rfl
  all_goals
    simp only [Near, frameDiff] at ha hb
    omega

theorem frameDiff_self (p : Frame) : frameDiff p p = 0 := by rw [frameDiff, BitVec.sub_self]; rfl

theorem frameDiff_next (p : Frame) : frameDiff p (p + 1) = 1 := by
  rw [frameDiff, show p + 1 - p = 1#32 by bv_omega]; rfl

theorem near_next (p : Frame) : Near p (p + 1) := by rw [Near, frameDiff_next]; decide

/-- R107: the later of two frames near p stands at the greater of their distances. -/
theorem Near.frameDiff_latest (ha : Near p a) (hb : Near p b) :
    frameDiff p (latest a b) = max (frameDiff p a) (frameDiff p b) := by
  rw [latest, atOrBefore, ha.frameDiff_eq hb]
  split
  · next h => rw [decide_eq_true_iff] at h; omega
  · next h => rw [decide_eq_true_iff] at h; omega

theorem Near.latest (ha : Near p a) (hb : Near p b) : Near p (latest a b) := by
  rw [Machine.latest]; split
  · exact hb
  · exact ha

/-- A frame raised to a floor near p. -/
theorem Near.raised {f : Option Frame} (ha : Near p a) (hf : ∀ x, f = some x → Near p x) : Near p (raised a f) := by
  cases f with
  | none => exact ha
  | some x => exact ha.latest (hf x rfl)

theorem Near.frameDiff_raised {f : Option Frame} (ha : Near p a) (hf : ∀ x, f = some x → Near p x) :
    frameDiff p (Machine.raised a f) = f.elim (frameDiff p a) fun x => max (frameDiff p a) (frameDiff p x) := by
  cases f with
  | none => rfl
  | some x => exact ha.frameDiff_latest (hf x rfl)

/-- R3: how far behind p a frame near p is held. -/
theorem frameDiff_neg (ha : Near p a) : frameDiff a p = -frameDiff p a := by
  have self : Near p p := by rw [Near, frameDiff_self]; decide
  rw [ha.frameDiff_eq self, frameDiff_self]; omega

theorem Near.frameDiff_heldPast (ha : Near p a) :
    frameDiff p (heldPast p a) = max (frameDiff p a) (-524288) := by
  have swap := frameDiff_neg ha
  obtain near | far := le_or_gt (frameDiff a p) 524288
  · rw [heldPast_of_le near]; omega
  · rw [heldPast_of_gt far, frameDiff, show p - 524288#32 - p = -524288#32 by bv_omega]
    have : (-524288#32).toInt = -524288 := rfl
    omega

theorem Near.heldPast (ha : Near p a) : Near p (heldPast p a) := by
  have := ha.frameDiff_heldPast
  rw [Near] at *
  omega

end

/-! ### Target frames (R106, R107) -/

section

variable {s : State} {v : ServiceIx} {b : EntryBody} {floor : Option Frame}

/-- R107: the floor frame is the target of the youngest entry, or the last-left frame. -/
theorem prevTarget_near {p : Frame} {q : Scheduler} (entries : ∀ e, q.queue.getLast? = some e → Near p e.target)
    (left : ∀ f, q.lastLeft = some f → Near p f) : ∀ f, prevTarget q = some f → Near p f := by
  intro f h
  rw [prevTarget] at h
  split at h
  · next e last => obtain rfl := Option.some.inj h; exact entries e last
  · exact left f h

theorem targetFrame_at (raw : Near s.pfn (rawTarget s v b))
    (prev : ∀ f, prevTarget (s.service v).sched = some f → Near s.pfn f)
    (floors : ∀ f, floor = some f → Near s.pfn f) :
    let at_ (f : Frame) : Int := frameDiff s.pfn f
    let low := max (at_ (rawTarget s v b)) 1
    let mid := (prevTarget (s.service v).sched).elim low fun f => max low (at_ f)
    at_ (targetFrame s v b floor) = (floor.elim mid fun f => max mid (at_ f)) ∧
      Near s.pfn (targetFrame s v b floor) := by
  intro at_ low mid
  have next := near_next s.pfn
  have lowest : at_ (latest (rawTarget s v b) (s.pfn + 1)) = low := by
    show frameDiff _ _ = _
    rw [raw.frameDiff_latest next, frameDiff_next]
  have nearLow := raw.latest next
  have middle : at_ (raised (latest (rawTarget s v b) (s.pfn + 1)) (prevTarget (s.service v).sched)) = mid := by
    show frameDiff _ _ = _
    rw [nearLow.frameDiff_raised prev]
    exact congrArg (fun n => Option.elim _ n fun f => max n (at_ f)) lowest
  have nearMid := nearLow.raised prev
  refine ⟨?_, nearMid.raised floors⟩
  show frameDiff _ (raised _ _) = _
  rw [nearMid.frameDiff_raised floors]
  exact congrArg (fun n => Option.elim _ n fun f => max n (at_ f)) middle

/-- R107: the target frame stands at or after its raw target and the floor frame. -/
theorem targetFrame_ge (raw : Near s.pfn (rawTarget s v b))
    (prev : ∀ f, prevTarget (s.service v).sched = some f → Near s.pfn f)
    (floors : ∀ f, floor = some f → Near s.pfn f) :
    frameDiff s.pfn (rawTarget s v b) ≤ frameDiff s.pfn (targetFrame s v b floor) ∧
      ∀ f, prevTarget (s.service v).sched = some f → frameDiff s.pfn f ≤ frameDiff s.pfn (targetFrame s v b floor) := by
  obtain ⟨place, -⟩ := targetFrame_at raw prev floors
  dsimp only at place
  rw [place]
  refine ⟨?_, fun f h => ?_⟩
  · cases prevTarget (s.service v).sched <;> cases floor <;> simp
  · rw [h]; cases floor <;> simp

/-- R107: the targets of a queue never decrease from head to tail. -/
def Rising (es : List Entry) : Prop := es.Pairwise fun d e => 0 ≤ frameDiff d.target e.target

/-- R104, R107: an entry that is offered keeps the targets rising. -/
theorem rising_offer (raw : Near s.pfn (rawTarget s v b)) (entries : ∀ e ∈ (s.service v).sched.queue, Near s.pfn e.target)
    (left : ∀ f, (s.service v).sched.lastLeft = some f → Near s.pfn f) (floors : ∀ f, floor = some f → Near s.pfn f)
    (rising : Rising (s.service v).sched.queue) : Rising ((offer v b floor s).2.service v).sched.queue := by
  have prev := prevTarget_near (fun e last => entries e (List.mem_of_getLast? last)) left
  obtain ⟨-, near⟩ := targetFrame_at raw prev floors
  rw [offer]
  split
  · rw [service_updSched_same]
    refine List.pairwise_append.mpr ⟨rising, List.pairwise_singleton .., fun d hd e he => ?_⟩
    obtain rfl := List.mem_singleton.mp he
    rw [(entries d hd).frameDiff_eq near]
    obtain ⟨older, e, split⟩ : ∃ older e, (s.service v).sched.queue = older ++ [e] :=
      List.eq_nil_or_concat' _ |>.resolve_left (List.ne_nil_of_mem hd)
    have last : prevTarget (s.service v).sched = some e.target := by rw [prevTarget, split]; simp
    have after : frameDiff s.pfn d.target ≤ frameDiff s.pfn e.target := by
      rw [split, Rising, List.pairwise_append] at rising
      rw [split, List.mem_append, List.mem_singleton] at hd
      obtain hd | rfl := hd
      · have := rising.2.2 d hd e (List.mem_singleton_self e)
        rw [(entries d (by simp [split, hd])).frameDiff_eq (entries e (by simp [split]))] at this
        omega
      · exact le_refl _
    have := (targetFrame_ge raw prev floors).2 _ last
    show 0 ≤ frameDiff s.pfn (targetFrame s v b floor) - _
    omega
  · rw [service_updSched_same]; exact rising

/-- R3, R107: the holding of past frame numbers keeps the targets rising. -/
theorem rising_held {p : Frame} {es : List Entry} (near : ∀ e ∈ es, Near p e.target) (rising : Rising es) :
    Rising (es.map fun e => { e with target := heldPast p e.target }) := by
  rw [Rising, List.pairwise_map]
  refine List.Pairwise.imp_of_mem (fun {d e} hd he h => ?_) rising
  rw [(near d hd).frameDiff_eq (near e he)] at h
  rw [(near d hd).heldPast.frameDiff_eq (near e he).heldPast, (near d hd).frameDiff_heldPast,
    (near e he).frameDiff_heldPast]
  omega

/-- Settles O44: the raw targets, the target as the latest of its floors, and the queue's targets rising. -/
theorem targetIsLatest : Obligations.TargetIsLatest := by
  intro s v body floor near at_ sum raw target queue rising
  refine ⟨?_, ?_, ?_, ?_, ?_⟩
  · rintro w rfl; rfl
  · rintro l a rfl; rfl
  · rintro k i x a rfl
    show moved a (sum - (0 : Nat)) = _
    rw [Nat.cast_zero, sub_zero]; rfl
  · intro nearRaw entries left floors low mid high
    have prev := prevTarget_near entries left
    obtain ⟨place, nearTarget⟩ := targetFrame_at (b := body) nearRaw prev floors
    obtain ⟨after, -⟩ := targetFrame_ge (b := body) nearRaw prev floors
    have middle : (prevTarget (s.service v).sched).elim low (fun f => max low (at_ f)) = mid := by
      show _ = match queue.getLast?, (s.service v).sched.lastLeft with
        | some e, _ => max low (at_ e.target)
        | none, some f => max low (at_ f)
        | none, none => low
      rw [prevTarget]
      show (match queue.getLast? with | some e => _ | none => _ : Option Frame).elim _ _ = _
      cases queue.getLast? with
      | some e => rfl
      | none => cases (s.service v).sched.lastLeft <;> rfl
    have late : latenessOf s v body floor = at_ target - at_ raw := Near.frameDiff_eq nearRaw nearTarget
    refine ⟨?_, ?_, late⟩
    · rw [show at_ target = _ from place]
      show Option.elim floor (Option.elim _ low _) _ = high
      rw [middle]
      cases floor <;> rfl
    · rw [show frameDiff raw target = _ from late]
      exact sub_nonneg.mpr after
  · intro nearRaw entries left floors up
    exact ⟨rising_offer nearRaw entries left floors up, fun es sub => up.sublist sub, rising_held entries up⟩

end

/-! ### Durations and show frames (R132, R133) -/

/-- R132: the least number of frames that is not below n over r. -/
theorem ceil_div (n : Nat) {r : Nat} (pos : 1 ≤ r) :
    n ≤ (n + r - 1) / r * r ∧ ∀ j, n ≤ j * r → (n + r - 1) / r ≤ j := by
  constructor
  · have below := (Nat.div_lt_iff_lt_mul pos).mp (Nat.lt_succ_self ((n + r - 1) / r))
    rw [Nat.succ_mul] at below
    omega
  · intro j enough
    refine Nat.lt_succ_iff.mp ((Nat.div_lt_iff_lt_mul pos).mpr ?_)
    rw [Nat.succ_mul]
    omega

theorem queuedFloor_none {bs : List Block} (h : ∀ z ∈ bs, ∀ u, z ≠ .text u) : queuedFloor bs = none := by
  induction bs with
  | nil => rfl
  | cons b bs ih =>
    cases b with
    | text y => exact absurd rfl (h _ List.mem_cons_self y)
    | clearOnly => exact ih fun z hz => h z (List.mem_cons_of_mem _ hz)

theorem queuedFloor_split {older younger : List Block} {y : TextBlock} (h : ∀ z ∈ younger, ∀ u, z ≠ .text u) :
    queuedFloor (older ++ .text y :: younger) = some (moved y.showFrame y.dur) := by
  induction older with
  | nil => rw [List.nil_append, queuedFloor, queuedFloor_none h]; rfl
  | cons b older ih =>
    cases b with
    | text z => rw [List.cons_append, queuedFloor, ih, Option.orElse_some]
    | clearOnly => exact ih

/-- R133: a show-frame floor near PFN, and the show frame that it gives. -/
theorem showFrame_at {p first : Frame} {floor : Option Frame} (near : Near p first)
    (floors : ∀ f, floor = some f → Near p f) :
    frameDiff p (raised (latest first (p + 1)) floor) =
      floor.elim (max (frameDiff p first) 1) fun f => max (max (frameDiff p first) 1) (frameDiff p f) := by
  rw [(near.latest (near_next p)).frameDiff_raised floors, near.frameDiff_latest (near_next p), frameDiff_next]

/-- Settles O45: the duration as a ceiling held to its range, and the show frame over its floor. -/
theorem blockIsTimed : Obligations.BlockIsTimed := by
  intro s v rows first story trailing rate x b fps n near at_ low
  obtain ⟨enough, least⟩ := ceil_div (n * fps) rate
  have show_ {floor : Option Frame} (h : showFloor x.cb = floor) :
      b.showFrame = raised (latest first (s.pfn + 1)) floor := by rw [← h]; rfl
  refine ⟨rfl, rfl, rfl, rfl, rfl, ⟨_, enough, least, ?_⟩, fun older y younger blocks noText nearFirst nearFloor => ?_,
    fun noText => ⟨fun f d shown nearFirst nearFloor => ?_, fun shown nearFirst => ?_⟩⟩
  · exact rfl
  · rw [show_ (floor := some (moved y.showFrame y.dur)) (by rw [showFloor, blocks, queuedFloor_split noText])]
    exact showFrame_at nearFirst fun _ h => Option.some.inj h ▸ nearFloor
  · rw [show_ (floor := some (moved f d)) (by rw [showFloor, queuedFloor_none noText, shown]; rfl)]
    exact showFrame_at nearFirst fun _ h => Option.some.inj h ▸ nearFloor
  · rw [show_ (floor := none) (by rw [showFloor, queuedFloor_none noText, shown]; rfl)]
    exact showFrame_at nearFirst fun _ h => absurd h (by simp)

end Sys2Proof.Machine
end

section
/-! Words composed in roll-up (O46). -/

namespace Sys2Proof.Machine

/-! ### Texts cut in pieces and joined in rows (R125) -/

/-- A list cut in pieces of w: full pieces, and a last one that is not empty. -/
theorem chunk_eq {α : Type} {w n : Nat} {xs : List α} (pos : 1 ≤ w) (long : xs.length ≤ n) (some : xs ≠ []) :
    ∃ init last, chunk w n xs = init ++ [last] ∧ init.flatten ++ last = xs ∧ (∀ p ∈ init, p.length = w) ∧
      1 ≤ last.length ∧ last.length ≤ w := by
  induction n generalizing xs with
  | zero => exact absurd (List.length_eq_zero_iff.mp (Nat.le_zero.mp long)) some
  | succ n ih =>
    obtain ⟨x, xs, rfl⟩ := List.exists_cons_of_ne_nil some
    rw [chunk]
    by_cases rest : (x :: xs).drop w = []
    · have short : (x :: xs).length ≤ w := List.drop_eq_nil_iff.mp rest
      refine ⟨[], (x :: xs).take w, ?_, ?_, by simp, ?_, List.length_take_le ..⟩
      · rw [rest]; cases n <;> rfl
      · rw [List.take_of_length_le short]; rfl
      · rw [List.take_of_length_le short]; simp
    · have left : ((x :: xs).drop w).length ≤ n := by
        rw [List.length_drop]; omega
      obtain ⟨init, last, cut, whole, full, least, most⟩ := ih left rest
      refine ⟨(x :: xs).take w :: init, last, by rw [cut]; rfl, ?_, fun p hp => ?_, least, most⟩
      · rw [List.flatten_cons, List.append_assoc, whole, List.take_append_drop]
      · obtain rfl | hp := List.mem_cons.mp hp
        · have : w ≤ (x :: xs).length := (not_le.mp fun h => rest (List.drop_eq_nil_iff.mpr h)).le
          exact List.length_take_of_le this
        · exact full p hp

theorem joinRows_concat (sep : UnitKind) (init : List Row) (last : Row) :
    joinRows sep (init ++ [last]) = init.flatMap (fun p => [.glyphs p, sep]) ++ [.glyphs last] := by
  induction init with
  | nil => rfl
  | cons r init ih =>
    rw [List.flatMap_cons, List.cons_append, List.append_assoc, ← ih]
    cases init <;> rfl

/-! ### A word on a row (R124) -/

section

variable {width fill : Nat} {w : WordRecord} {newRow : Bool}

/-- R124: the space before a word that continues a row. -/
def spaceBefore (w : WordRecord) : Nat := if w.cont then 0 else 1

/-- R124: the word starts a new row, by a speaker change, a break or a pending new row. -/
def turnsRow (w : WordRecord) (newRow : Bool) : Bool := w.speaker || w.breakBefore || newRow

/-- R124: a word that continues the row that it finds. -/
theorem composeOn_stays (begun : 0 < fill) (same : turnsRow w newRow = false)
    (fits : fill + spaceBefore w + (wordText w).length ≤ width) :
    composeOn width w fill newRow =
      { kinds := [.glyphs ((if w.cont then [] else [0x20#8]) ++ wordText w)]
        fill := fill + spaceBefore w + (wordText w).length, newRow := w.breakAfter } := by
  have sep : (if 0 < fill ∧ w.cont = false then 1 else 0) = spaceBefore w := by
    rw [spaceBefore]; cases w.cont <;> simp [begun]
  have noSpill : decide (width < fill + spaceBefore w + (wordText w).length) = false := decide_eq_false (by omega)
  rw [turnsRow] at same
  simp only [composeOn, same, Bool.false_and, Bool.false_eq_true, if_false, sep, noSpill, Bool.and_false]
  rw [if_pos (by omega)]
  cases c : w.cont <;> simp [spaceBefore, c]

/-- R124, R125: a word that starts a fresh row: the row it finds is empty, is turned, or has no room. -/
theorem composeOn_fresh
    (fresh : fill = 0 ∨ turnsRow w newRow = true ∨ width < fill + spaceBefore w + (wordText w).length) :
    composeOn width w fill newRow =
      let lead := if 0 < fill then [UnitKind.roll] else []
      if (wordText w).length ≤ width then
        { kinds := lead ++ [.glyphs (wordText w)], fill := (wordText w).length, newRow := w.breakAfter }
      else
        let pieces := chunk width (wordText w).length (wordText w)
        { kinds := lead ++ joinRows .roll pieces, fill := (pieces.getLast?.getD []).length,
          newRow := w.breakAfter } := by
  by_cases turn : 0 < fill ∧ turnsRow w newRow = true
  · obtain ⟨begun, turn⟩ := turn
    rw [turnsRow] at turn
    simp [composeOn, turn, begun]
  · by_cases begun : 0 < fill
    · have same : (w.speaker || w.breakBefore || newRow) = false := by
        simpa [turnsRow, begun] using turn
      have sep : (if w.cont = false then 1 else 0) = spaceBefore w := by
        rw [spaceBefore]; cases w.cont <;> rfl
      have spill : width < fill + spaceBefore w + (wordText w).length := by
        rcases fresh with h | h | h
        · omega
        · rw [turnsRow] at h; simp [same] at h
        · exact h
      simp [composeOn, same, begun, sep, spill]
    · obtain rfl : fill = 0 := by omega
      simp [composeOn]

end

section

variable {width : Nat} {w : WordRecord} {b : Builder}

/-- R124: the fill that a word finds: that of the row when the form is ROLLING, and none otherwise. -/
def rowFill (b : Builder) : Nat := if b.form = .rolling then b.fill else 0

/-- R124: the CLEAR unit that comes first when the form is not ROLLING. -/
def clearLead (b : Builder) : List UnitKind := if b.form = .rolling then [] else [.clear]

/-- R124: the ROLL that leaves a row with glyphs on it. -/
def rollLead (b : Builder) : List UnitKind := if 0 < rowFill b then [.roll] else []

/-- R124: a word that goes on a row of its own. -/
def StartsFresh (width : Nat) (w : WordRecord) (b : Builder) : Prop :=
  rowFill b = 0 ∨ turnsRow w b.newRow = true ∨ width < rowFill b + spaceBefore w + (wordText w).length

theorem compose_stays (stays : ¬ StartsFresh width w b) :
    b.form = .rolling ∧ compose width w b =
      { kinds := [.glyphs ((if w.cont then [] else [0x20#8]) ++ wordText w)]
        fill := rowFill b + spaceBefore w + (wordText w).length, newRow := w.breakAfter } := by
  rw [StartsFresh, not_or, not_or] at stays
  obtain ⟨begun, same, fits⟩ := stays
  have rolling : b.form = .rolling := by
    by_contra h; exact begun (if_neg h)
  refine ⟨rolling, ?_⟩
  rw [rowFill, if_pos rolling] at *
  rw [compose, if_pos rolling]
  exact composeOn_stays (Nat.pos_of_ne_zero begun) (Bool.eq_false_iff.mpr same) (not_lt.mp fits)

theorem compose_fresh (fresh : StartsFresh width w b) :
    compose width w b =
      if (wordText w).length ≤ width then
        { kinds := clearLead b ++ rollLead b ++ [.glyphs (wordText w)], fill := (wordText w).length,
          newRow := w.breakAfter }
      else
        let pieces := chunk width (wordText w).length (wordText w)
        { kinds := clearLead b ++ rollLead b ++ joinRows .roll pieces, fill := (pieces.getLast?.getD []).length,
          newRow := w.breakAfter } := by
  rw [compose]
  by_cases rolling : b.form = .rolling
  · have row : rowFill b = b.fill := if_pos rolling
    rw [StartsFresh, row] at fresh
    rw [if_pos rolling, composeOn_fresh fresh, clearLead, if_pos rolling, rollLead, row]
    rfl
  · have row : rowFill b = 0 := if_neg rolling
    rw [if_neg rolling, composeOn_fresh (.inl rfl), clearLead, if_neg rolling, rollLead, row]
    dsimp only
    split <;> rfl

theorem compose_whole (fresh : StartsFresh width w b) (short : (wordText w).length ≤ width) :
    compose width w b =
      { kinds := clearLead b ++ rollLead b ++ [.glyphs (wordText w)], fill := (wordText w).length,
        newRow := w.breakAfter } := by rw [compose_fresh fresh, if_pos short]

theorem wordText_ne_nil (some : 1 ≤ w.glyphs.length) : 1 ≤ (wordText w).length := by
  rw [wordText, List.length_append, List.length_map]; omega

theorem compose_cut (pos : 1 ≤ width) (long : width < (wordText w).length) (fresh : StartsFresh width w b) :
    ∃ (init : List Row) (last : Row), compose width w b =
        { kinds := clearLead b ++ rollLead b ++ (init.flatMap (fun p => [.glyphs p, .roll]) ++ [.glyphs last])
          fill := last.length, newRow := w.breakAfter } ∧
      init.flatten ++ last = wordText w ∧ (∀ p ∈ init, p.length = width) ∧ 1 ≤ last.length ∧ last.length ≤ width := by
  obtain ⟨init, last, cut, parts⟩ :=
    chunk_eq (xs := wordText w) pos (le_refl _) (List.ne_nil_of_length_pos (Nat.zero_lt_of_lt long))
  refine ⟨init, last, ?_, parts⟩
  rw [compose_fresh fresh, if_neg (not_le.mpr long), cut]
  dsimp only
  rw [joinRows_concat, List.getLast?_concat, Option.getD_some]

/-- R124, R125: the rows that a word fills are neither empty nor longer than the width. -/
theorem compose_bounded (pos : 1 ≤ width) (some : 1 ≤ w.glyphs.length) :
    (compose width w b).newRow = w.breakAfter ∧ 1 ≤ (compose width w b).fill ∧ (compose width w b).fill ≤ width ∧
    ∀ gs, UnitKind.glyphs gs ∈ (compose width w b).kinds → 1 ≤ gs.length ∧ gs.length ≤ width := by
  have text := wordText_ne_nil some
  have leads {gs : List Byte} : UnitKind.glyphs gs ∉ clearLead b ++ rollLead b := by
    rw [clearLead, rollLead]; split <;> split <;> simp
  by_cases fresh : StartsFresh width w b
  · obtain short | long := le_or_gt (wordText w).length width
    · rw [compose_whole fresh short]
      refine ⟨rfl, text, short, fun gs h => ?_⟩
      obtain h | h := List.mem_append.mp h
      · exact absurd h leads
      · obtain rfl := UnitKind.glyphs.inj (List.mem_singleton.mp h)
        exact ⟨text, short⟩
    · obtain ⟨init, last, composed, -, full, least, most⟩ := compose_cut pos long fresh
      rw [composed]
      refine ⟨rfl, least, most, fun gs h => ?_⟩
      obtain h | h := List.mem_append.mp h
      · exact absurd h leads
      obtain h | h := List.mem_append.mp h
      · obtain ⟨p, hp, h⟩ := List.mem_flatMap.mp h
        obtain rfl : gs = p := by simpa using h
        rw [full gs hp]; exact ⟨pos, le_refl _⟩
      · obtain rfl := UnitKind.glyphs.inj (List.mem_singleton.mp h)
        exact ⟨least, most⟩
  · obtain ⟨-, composed⟩ := compose_stays fresh
    rw [StartsFresh, not_or, not_or, not_lt] at fresh
    obtain ⟨-, -, fits⟩ := fresh
    rw [composed]
    refine ⟨rfl, by dsimp only; omega, fits, fun gs h => ?_⟩
    obtain rfl := UnitKind.glyphs.inj (List.mem_singleton.mp h)
    have spaced : ((if w.cont then [] else [0x20#8] : List Byte)).length = spaceBefore w := by
      rw [spaceBefore]; split <;> rfl
    rw [List.length_append, spaced]
    omega

end

/-- Settles O46: a word stays on the row that it finds, or goes on a fresh one, whole or in pieces. -/
theorem wordIsComposed : Obligations.WordIsComposed := by
  intro width w b pos some text c fill turns spaced lead
  have size : 1 ≤ text.length := wordText_ne_nil some
  obtain ⟨newRow, least, most, rows⟩ := compose_bounded (b := b) pos some
  have turn (begun : 0 < fill) : turnsRow w b.newRow = true ↔ turns := by
    rw [turnsRow, Bool.or_eq_true, Bool.or_eq_true, or_assoc]
    exact ⟨fun h => ⟨begun, h⟩, fun h => h.2⟩
  have rolls (begun : 0 < fill) : clearLead b ++ rollLead b = [.roll] := by
    have rolling : b.form = .rolling := by
      by_contra h
      have none : fill = 0 := if_neg h
      omega
    rw [clearLead, if_pos rolling, rollLead, if_pos (show 0 < rowFill b from begun)]; rfl
  have stays {n : Nat} (begun : 0 < fill) (same : ¬ turns) (space : spaceBefore w = n)
      (fits : fill + n + text.length ≤ width) : ¬ StartsFresh width w b := by
    rintro (h | h | h)
    · exact absurd h begun.ne'
    · exact same ((turn begun).mp h)
    · rw [space] at h; exact absurd h (not_lt.mpr fits)
  refine ⟨newRow, least, most, rows, fun empty short => ?_, fun begun same cont fits => ?_,
    fun begun same cont fits => ?_, fun begun new short => ?_, fun long => ?_⟩
  · have whole := compose_whole (b := b) (.inl empty) short
    have noRoll : rollLead b = [] := if_neg (by rw [show rowFill b = 0 from empty]; decide)
    rw [noRoll, List.append_nil] at whole
    exact ⟨congrArg Composed.kinds whole, congrArg Composed.fill whole⟩
  · have space : spaceBefore w = 1 := by rw [spaceBefore, cont]; rfl
    obtain ⟨-, composed⟩ := compose_stays (stays begun same space fits)
    rw [cont, space] at composed
    exact ⟨congrArg Composed.kinds composed, congrArg Composed.fill composed⟩
  · have space : spaceBefore w = 0 := by rw [spaceBefore, cont]; rfl
    obtain ⟨-, composed⟩ := compose_stays (stays begun same space fits)
    rw [cont, space] at composed
    exact ⟨congrArg Composed.kinds composed, congrArg Composed.fill composed⟩
  · have fresh : StartsFresh width w b := by
      rcases new with h | ⟨cont, h⟩ | ⟨cont, h⟩
      · exact .inr (.inl ((turn begun).mpr h))
      · exact .inr (.inr (by rw [spaceBefore, cont]; exact h))
      · exact .inr (.inr (by rw [spaceBefore, cont]; exact h))
    have whole := compose_whole fresh short
    rw [rolls begun] at whole
    exact ⟨congrArg Composed.kinds whole, congrArg Composed.fill whole⟩
  · have fresh : StartsFresh width w b := by
      refine .inr (.inr ?_)
      have : width < (wordText w).length := long
      omega
    obtain ⟨init, last, composed, flat, full, one, short⟩ := compose_cut pos long fresh
    refine ⟨init, last, flat, full, one, short, ?_, congrArg Composed.fill composed⟩
    rw [List.append_assoc]
    exact congrArg Composed.kinds composed

end Sys2Proof.Machine
end

section
/-! The wire and the intake of a steno line (O47, O48). -/

namespace Sys2Proof.Machine

/-! ### The wire (R16, R17, R25) -/

theorem startBit_eq (high : Bool) (x : Line) :
    startBit high x = if looksForStart x = true ∧ high = false then { x with receiver := .timing x.record } else x := by
  rw [startBit]; cases high <;> simp

theorem wireHigh_eq (x : Line) :
    wireHigh x = if x.receiver = .waitHigh then { x with receiver := .watching } else x := by
  rw [wireHigh]; split
  · next wait => rw [if_pos wait]
  · next other => rw [if_neg other]

theorem transmit_of_idle {x : Line} (idle : x.sending = none) :
    transmit x = { x with
      sending := if calledFor x = x.lastSent then none else
        some { byte := calledFor x, rate := x.record.rate, dataBits := x.record.dataBits, parity := x.record.parity } } := by
  rw [transmit, idle]
  by_cases same : calledFor x = x.lastSent
  · simp [same, ← idle]
  · simp [same]

/-- Settles O47: the fall and the rise of the wire, and the end of a character sent. -/
theorem wireFollowed : Obligations.WireFollowed := by
  intro s l awake
  have run {c : Instr} {f : Line → Line} (h : exec c s = .next (whenAwake s fun t => t.updLine l f)) :
      exec c s = .next (s.updLine l f) := by rw [h, whenAwake_awake _ awake]
  refine ⟨fun high => ?_, ?_, fun idle => ?_, fun k sending => ?_⟩
  · rw [run (f := startBit high) rfl]
    exact congrArg Host.Outcome.next (updLine_congr (startBit_eq high _))
  · rw [run (f := wireHigh) rfl]
    exact congrArg Host.Outcome.next (updLine_congr (wireHigh_eq _))
  · rw [run (f := sent) rfl]
    refine congrArg Host.Outcome.next (updLine_eq_self ?_)
    rw [sent, idle]
  · rw [run (f := sent) rfl]
    refine congrArg Host.Outcome.next (updLine_congr ?_)
    rw [sent, sending]
    exact transmit_of_idle rfl

/-! ### The XOFF mark (R24 to R26) -/

theorem setXoff_true (x : Line) :
    setXoff true x = { x with
      xoff := true
      sending := if x.sending = none ∧ x.lastSent = .xon then
          some { byte := .xoff, rate := x.record.rate, dataBits := x.record.dataBits, parity := x.record.parity }
        else x.sending } := by
  rw [setXoff, transmit]
  cases x.sending <;> cases x.lastSent <;> simp [calledFor]

theorem appendIntake_eq (i : IntakeItem) (x : Line) :
    let fills := x.record.flow = true ∧ x.xoff = false ∧ 95 ≤ x.fifo.length
    appendIntake i x = { x with
      fifo := x.fifo ++ [i]
      xoff := if fills then true else x.xoff
      sending := if fills ∧ x.sending = none ∧ x.lastSent = .xon then
          some { byte := .xoff, rate := x.record.rate, dataBits := x.record.dataBits, parity := x.record.parity }
        else x.sending } := by
  intro fills
  have test : (x.record.flow && !x.xoff && decide (Config.xoffThreshold ≤ (x.fifo ++ [i]).length)) = true ↔ fills := by
    have threshold : Config.xoffThreshold = 96 := rfl
    rw [List.length_append, List.length_singleton, threshold, Bool.and_eq_true, Bool.and_eq_true, decide_eq_true_iff,
      Bool.not_eq_true', and_assoc]
    show _ ∧ _ ∧ _ ↔ _ ∧ _ ∧ _
    rw [show 96 ≤ x.fifo.length + 1 ↔ 95 ≤ x.fifo.length by omega]
  rw [appendIntake]
  dsimp only
  by_cases full : fills
  · rw [if_pos (test.mpr full), setXoff_true, if_pos full]
    simp only [full, true_and]
  · rw [if_neg (test.not.mpr full), if_neg full]
    simp only [full, false_and, if_false]

theorem afterRemoval_eq {x : Line} {i : IntakeItem} {rest : List IntakeItem} (queued : x.fifo = i :: rest) :
    let releases := x.xoff = true ∧ rest.length = 32
    afterRemoval x = { x with
      fifo := rest
      overrunOpen := if rest.length = 95 then false else x.overrunOpen
      xoff := if releases then false else x.xoff
      sending := if releases ∧ x.sending = none ∧ x.lastSent = .xoff then
          some { byte := .xon, rate := x.record.rate, dataBits := x.record.dataBits, parity := x.record.parity }
        else x.sending } := by
  intro releases
  have test : (x.xoff && decide (rest.length = Config.xonThreshold)) = true ↔ releases := by
    rw [Bool.and_eq_true, decide_eq_true_iff]; rfl
  rw [afterRemoval, queued, List.tail_cons]
  dsimp only
  by_cases low : releases
  · rw [if_pos (test.mpr low), setXoff_false, if_pos low]
    simp only [low, true_and]
    rfl
  · rw [if_neg (test.not.mpr low), if_neg low]
    simp only [low, false_and, if_false]
    rfl

/-! ### A byte handed on (R21, R23) -/

section

variable {s : State} {l : LineIx} {i : IntakeItem}

theorem stalled_eq_false : stalled s l = false ↔ (s.line l).asm.held = none := by
  rw [stalled]; cases (s.line l).asm.held <;> simp

theorem handOn_decode (empty : (s.line l).fifo = []) (free : (s.line l).asm.held = none) :
    handOn l i s = decodeItem l i s := by
  rw [handOn, empty, stalled_eq_false.mpr free]; rfl

theorem handOn_append (waits : (s.line l).fifo ≠ [] ∨ (s.line l).asm.held ≠ none) (room : (s.line l).fifo.length < 128) :
    handOn l i s = s.updLine l (appendIntake i) := by
  rw [handOn, if_neg, if_pos (show (s.line l).fifo.length < Config.intakeCapacity from room)]
  rw [Bool.and_eq_true, List.isEmpty_iff, Bool.not_eq_true', stalled_eq_false]
  rintro ⟨empty, free⟩
  rcases waits with h | h
  · exact h empty
  · exact h free

theorem handOn_overrun (full : 128 ≤ (s.line l).fifo.length) :
    handOn l i s =
      { s.updLine l (fun x => { x with overruns := bump x.overruns, overrunOpen := true }) with
        ci := if (s.line l).overrunOpen then s.ci
          else joinNotice (.lineOverrun l (bump (s.line l).overruns)) s.ci } := by
  have some : (s.line l).fifo.isEmpty = false := by
    cases h : (s.line l).fifo with
    | nil => rw [h] at full; exact absurd full (by decide)
    | cons => rfl
  rw [handOn, some, if_neg (by simp), if_neg (show ¬ (s.line l).fifo.length < Config.intakeCapacity from not_lt.mpr full),
    overrun]
  dsimp only
  rw [line_updLine_same]
  split <;> rfl

end

/-! ### Reactions that find the one before them quiet -/

theorem firstOf_eq_some {f : Fin 4 → Option State} {i : Fin 4} {t : State} (before : ∀ j < i, f j = none)
    (here : f i = some t) : firstOf f = some t := by
  fin_cases i
  · simp [firstOf, orElseDo, show f 0 = some t from here]
  · simp [firstOf, orElseDo, before 0 (by decide), show f 1 = some t from here]
  · simp [firstOf, orElseDo, before 0 (by decide), before 1 (by decide), show f 2 = some t from here]
  · simp [firstOf, orElseDo, before 0 (by decide), before 1 (by decide), before 2 (by decide),
      show f 3 = some t from here]

/-- Once the builders and the retries have nothing to do, the reaction is that of the intake FIFOs. -/
theorem react_of_hand {s : State} (builders : ∀ v, builderReact v s = none)
    (retries : ∀ m, (s.line m).asm.retryOwed = false) : react s = firstOf fun l => handItem l s := by
  have noBuilder : firstOf (fun v => builderReact v s) = none := firstOf_eq_none.mpr builders
  have noRetry : firstOf (fun l => retryReact l s) = none :=
    firstOf_eq_none.mpr fun m => by rw [retryReact, retries m]; rfl
  rw [react, noBuilder, noRetry]; rfl

/-! ### A character received (R17 to R21) -/

section

variable {s : State} {l : LineIx} {data : Byte} {pbit stop : Bool}

theorem exec_character (awake : s.resetLow = false) :
    exec (.characterReceived l data pbit stop) s = .next (character l data pbit stop s) :=
  congrArg Host.Outcome.next (whenAwake_awake _ awake)

theorem parityWrong_iff (r : LineRecord) (v : Byte) :
    parityWrong r v pbit = true ↔
      r.parity = .odd ∧ (onesOf v + if pbit then 1 else 0) % 2 = 0 ∨
        r.parity = .even ∧ (onesOf v + if pbit then 1 else 0) % 2 = 1 := by
  rw [parityWrong]
  cases r.parity <;> simp

theorem isFlowByte_iff (v : Byte) : isFlowByte v = true ↔ v = 0x11#8 ∨ v = 0x13#8 := by simp [isFlowByte]

theorem character_of_record {r : LineRecord} (on : r.enabled = true)
    (record : (s.line l).receiver = .timing r ∨ (s.line l).receiver = .watching ∧ r = (s.line l).record) :
    character l data pbit stop s = settle (receive l r data pbit stop s) := by
  have inForce : recordInForce (s.line l) = some r := by
    rw [recordInForce]
    rcases record with h | ⟨h, rfl⟩ <;> rw [h]
  rw [character, inForce]
  exact if_pos on

theorem charValue_eq (r : LineRecord) (data : Byte) :
    charValue r data = if r.dataBits = .seven then data &&& 0x7F#8 else data := by
  rw [charValue]; cases r.dataBits <;> rfl

/-- R17: a character is in error by its stop bit or by its parity. -/
def inError (r : LineRecord) (data : Byte) (pbit stop : Bool) : Bool :=
  !stop || stop && parityWrong r (charValue r data) pbit

theorem inError_eq (r : LineRecord) :
    inError r data pbit stop = decide (stop = false ∨ stop = true ∧
      (r.parity = .odd ∧ (onesOf (charValue r data) + if pbit then 1 else 0) % 2 = 0 ∨
        r.parity = .even ∧ (onesOf (charValue r data) + if pbit then 1 else 0) % 2 = 1)) := by
  rw [Bool.eq_iff_iff, decide_eq_true_iff, ← parityWrong_iff, inError]
  cases stop <;> simp

/-- R18, R19: the line that has counted a character. -/
def countedLine (pfn : Frame) (r : LineRecord) (data : Byte) (pbit stop : Bool) (x : Line) : Line :=
  countCharacter pfn (!stop) (stop && parityWrong r (charValue r data) pbit) x

/-- R19, R21: the item that a character hands on. -/
def itemOf (r : LineRecord) (data : Byte) (pbit stop : Bool) : IntakeItem :=
  { value := if inError r data pbit stop = true then r.substitute else charValue r data
    errored := inError r data pbit stop }

theorem receive_flow {r : LineRecord} (clean : inError r data pbit stop = false)
    (flow : isFlowByte (charValue r data) = true) :
    receive l r data pbit stop s = s.updLine l (countedLine s.pfn r data pbit stop) := by
  rw [inError] at clean
  rw [receive, clean, if_neg (by decide), if_pos flow]; rfl

theorem receive_item {r : LineRecord}
    (handed : inError r data pbit stop = true ∨ isFlowByte (charValue r data) = false) :
    receive l r data pbit stop s =
      handOn l (itemOf r data pbit stop) (s.updLine l (countedLine s.pfn r data pbit stop)) := by
  rw [receive, itemOf]
  cases wrong : inError r data pbit stop with
  | true =>
    rw [inError] at wrong
    rw [if_pos wrong, if_pos rfl]; rfl
  | false =>
    have plain := handed.resolve_left (by simp [wrong])
    rw [inError] at wrong
    rw [if_neg (by rw [wrong]; decide), if_neg (by rw [plain]; decide), if_neg (by decide)]; rfl

end

/-- Settles O48: what a character does by the receiver and the intake, and how the intake drains. -/
theorem characterTaken : Obligations.CharacterTaken := by
  refine ⟨fun s l data pbit stop awake => ?_, fun s => ⟨fun settled l free => ?_, ?_⟩⟩
  · intro x
    have run := exec_character (s := s) (l := l) (data := data) (pbit := pbit) (stop := stop) awake
    refine ⟨fun deaf => ?_, fun r timing off => ?_, ?_⟩
    · rw [run, character]
      rcases deaf with wait | ⟨watch, off⟩
      · rw [recordInForce, show (s.line l).receiver = .waitHigh from wait]
      · rw [recordInForce, show (s.line l).receiver = .watching from watch]
        dsimp only
        rw [if_neg (by rw [show (s.line l).record.enabled = false from off]; decide)]
        refine congrArg Host.Outcome.next (updLine_eq_self ?_)
        rw [passOver, show (s.line l).receiver = .watching from watch]
    · rw [run, character, recordInForce, show (s.line l).receiver = .timing r from timing]
      dsimp only
      rw [if_neg (by rw [off]; decide)]
      refine congrArg Host.Outcome.next (updLine_congr ?_)
      rw [passOver, show (s.line l).receiver = .timing r from timing]
    · intro r on record value ones parity errored y counted item fills
      rw [character_of_record on record] at run
      have charge : charValue r data = value := charValue_eq r data
      have wrong : inError r data pbit stop = errored := by rw [inError_eq, charge]; rfl
      have handed : itemOf r data pbit stop = item := by rw [itemOf, wrong, charge]
      have isParity : (stop && parityWrong r (charValue r data) pbit) = true ↔ parity := by
        rw [Bool.and_eq_true, parityWrong_iff, charge]; rfl
      have lined : countedLine s.pfn r data pbit stop x = y := by
        have errors : (if (stop && parityWrong r (charValue r data) pbit) = true then bump x.parityErrors
            else x.parityErrors) = if parity then bump x.parityErrors else x.parityErrors := if_congr isParity rfl rfl
        rw [countedLine, countCharacter, errors]
        cases stop <;> rfl
      have whole : s.updLine l (countedLine s.pfn r data pbit stop) = counted := updLine_congr lined
      refine ⟨fun clean flow => ?_, fun passes => ?_⟩
      · rw [run, receive_flow (wrong.trans clean) ((isFlowByte_iff _).mpr (by rw [charge]; exact flow)), whole]
      · have taken : inError r data pbit stop = true ∨ isFlowByte (charValue r data) = false := by
          rw [wrong, ← Bool.not_eq_true, isFlowByte_iff, charge, not_or]; exact passes
        rw [receive_item taken, handed, whole] at run
        have fifo : (counted.line l) = y := line_updLine_same ..
        refine ⟨fun empty free => ?_, fun waits room => ?_, fun full => ⟨_, run.trans (congrArg _ rfl), ?_⟩⟩
        · rw [run, handOn_decode (by rw [fifo]; exact empty) (by rw [fifo]; exact free)]
        · rw [run, handOn_append (by rw [fifo]; exact waits) (by rw [fifo]; exact room), updLine_updLine]
          refine congrArg (fun t => Host.Outcome.next (settle t)) (updLine_congr ?_)
          exact appendIntake_eq item y
        · rw [handOn_overrun (by rw [fifo]; exact full), fifo, updLine_updLine]; rfl
  · rcases ((settled_iff.mp settled).2 l).2 with held | empty
    · rw [free] at held; exact absurd held (by decide)
    · exact empty
  · intro l i rest x releases builders retries before free queued
    rw [react_of_hand builders retries]
    refine firstOf_eq_some (i := l) (fun m lower => handItem_eq_none.mpr ?_) ?_
    · exact (before m lower).imp (fun held => Option.isSome_iff_ne_none.mpr held) id
    · rw [handItem, if_neg (by rw [stalled_eq_false.mpr free]; decide), show (s.line l).fifo = i :: rest from queued]
      exact congrArg (fun t => some (decodeItem l i t)) (updLine_congr (afterRemoval_eq queued))

end Sys2Proof.Machine
end

section
/-! The decoder (O49). -/

namespace Sys2Proof.Machine

/-! ### The classes of a byte (R27) -/

section

variable {bits : DataBits} {b : Byte}

theorem classify_glyph (h : 0x21 ≤ b.toNat ∧ b.toNat ≤ 0x7E ∨ 0xA0 ≤ b.toNat ∧ bits = .eight) :
    classify bits b = .glyph := by
  rw [classify, if_neg (by omega), if_neg (by omega), if_neg (by omega)]
  by_cases low : 0x21 ≤ b.toNat ∧ b.toNat ≤ 0x7E
  · rw [if_pos low]
  · rw [if_neg low, if_pos (h.resolve_left low)]

theorem classify_delimiter (h : b.toNat = 0x20 ∨ b.toNat = 0x0D ∨ b.toNat = 0x0A) : classify bits b = .delimiter :=
  if_pos h

theorem classify_backspace (h : b.toNat = 0x08) : classify bits b = .backspace := by
  rw [classify, if_neg (by omega), if_pos h]

theorem classify_leadIn (h : b.toNat = 0x1E) : classify bits b = .leadIn := by
  rw [classify, if_neg (by omega), if_neg (by omega), if_pos h]

theorem classify_other (noGlyph : ¬ (0x21 ≤ b.toNat ∧ b.toNat ≤ 0x7E ∨ 0xA0 ≤ b.toNat ∧ bits = .eight))
    (plain : b.toNat ∉ [0x08, 0x0A, 0x0D, 0x1E, 0x20]) : classify bits b = .other := by
  simp only [List.mem_cons, List.not_mem_nil, or_false, not_or] at plain noGlyph
  obtain ⟨bs, lf, cr, li, sp⟩ := plain
  rw [classify, if_neg (by omega), if_neg bs, if_neg li, if_neg noGlyph.1, if_neg noGlyph.2]

end

/-! ### A byte in NORMAL, and a code byte -/

section

variable {s : State} {l : LineIx} {i : IntakeItem}

/-- R27: with no command pending a byte acts by its class. -/
theorem decodeItem_normal (normal : (s.line l).commandPending = false) :
    decodeItem l i s = match classify (s.line l).record.dataBits i.value with
      | .glyph => takeGlyph l { glyph := i.value, errored := i.errored } s
      | .delimiter => takeDelimiter l s
      | .backspace => takeBackspace l s
      | .leadIn => s.updLine l fun x => { x with commandPending := true }
      | .other => discard l s := by
  rw [decodeItem, if_neg (by rw [normal]; decide)] <;>
    cases classify (s.line l).record.dataBits i.value <;> rfl

/-- R28: what a code byte does on the state in which no command is pending any more. -/
def codeAct (l : LineIx) (n : Nat) (s : State) : State :=
  if n = 0x53 then takeSpeaker l s
  else if n = 0x50 then takeBreak l s
  else if n = 0x43 then takeClearCommand l s
  else if n = 0x46 then flushWord l s
  else if n = 0x4E then takeNext l s
  else if n = 0x48 then takeHold l s
  else discard l s

theorem decodeItem_pending (pending : (s.line l).commandPending = true) :
    decodeItem l i s =
      let fresh := s.updLine l fun x => { x with commandPending := false }
      if i.errored then discard l fresh else codeAct l i.value.toNat fresh := by
  rw [decodeItem, if_pos pending, takeCode]
  dsimp only
  split
  · rfl
  · rw [codeAct]
    split
    · next h => rw [if_pos h]
    · next h => simp only [h]; rfl
    · next h => simp only [h]; rfl
    · next h => simp only [h]; rfl
    · next h => simp only [h]; rfl
    · next h => simp only [h]; rfl
    · next h1 h2 h3 h4 h5 h6 => rw [if_neg h1, if_neg h2, if_neg h3, if_neg h4, if_neg h5, if_neg h6]

/-! ### Glyphs and backspaces (R33, R43) -/

theorem appendGlyph_eq (pfn : Frame) (g : KeyedGlyph) (a : Assembler) :
    appendGlyph pfn g a = if a.glyphs = [] then
        { a with glyphs := [g], first := some pfn, carriedCont := a.carriedCont || a.contPending, contPending := false }
      else { a with glyphs := a.glyphs ++ [g] } := by
  rw [appendGlyph]
  simp only [List.isEmpty_iff]

theorem length_appendGlyph (pfn : Frame) (g : KeyedGlyph) (a : Assembler) :
    (appendGlyph pfn g a).glyphs.length = a.glyphs.length + 1 := by
  rw [appendGlyph_eq]
  split
  · next empty => rw [empty]; rfl
  · rw [List.length_append]; rfl

theorem asm_endHoldByGlyph (l m : LineIx) (s : State) : ((endHoldByGlyph l s).line m).asm = (s.line m).asm := by
  rw [endHoldByGlyph]; split <;> rfl

/-- R33: a glyph ends the hold, grows the word, and completes it at 32 glyphs. -/
theorem takeGlyph_eq (l : LineIx) (g : KeyedGlyph) (s : State) :
    takeGlyph l g s =
      let grown := (endHoldByGlyph l s).updAsm l fun _ => appendGlyph s.pfn g (s.line l).asm
      if (s.line l).asm.glyphs.length < 31 then grown
      else (completeWord l false grown).updAsm l fun a => { a with contPending := true } := by
  have same : (endHoldByGlyph l s).updAsm l (appendGlyph s.pfn g) =
      (endHoldByGlyph l s).updAsm l fun _ => appendGlyph s.pfn g (s.line l).asm := by
    apply updLine_congr
    rw [asm_endHoldByGlyph]
  have size : (((endHoldByGlyph l s).updAsm l fun _ => appendGlyph s.pfn g (s.line l).asm).line l).asm.glyphs.length =
      (s.line l).asm.glyphs.length + 1 := by rw [line_updAsm_same]; exact length_appendGlyph ..
  rw [takeGlyph, same]
  dsimp only
  rw [size]
  by_cases short : (s.line l).asm.glyphs.length < 31
  · rw [if_pos short, if_neg (show ¬ Config.wordLimit ≤ _ from not_le.mpr (Nat.succ_lt_succ short))]
  · rw [if_neg short, if_pos (show Config.wordLimit ≤ _ from Nat.succ_le_succ (not_lt.mp short))]

theorem dropGlyph_of_two {a : Assembler} (two : 2 ≤ a.glyphs.length) :
    dropGlyph a = { a with glyphs := a.glyphs.dropLast } := by
  rw [dropGlyph]
  refine if_neg ?_
  rw [List.isEmpty_iff_length_eq_zero, List.length_dropLast]
  omega

theorem dropGlyph_of_one {a : Assembler} (one : a.glyphs.length ≤ 1) :
    dropGlyph a = { a with
      glyphs := [], first := none, retracted := none
      contPending := a.contPending || a.carriedCont
      speakerPending := a.speakerPending || a.carriedSpeaker
      breakPending := a.breakPending || a.carriedBreak
      carriedCont := false, carriedSpeaker := false, carriedBreak := false } := by
  rw [dropGlyph]
  refine if_pos ?_
  rw [List.isEmpty_iff_length_eq_zero, List.length_dropLast]
  omega

theorem takeBackspace_of_word (some : (s.line l).asm.glyphs ≠ []) :
    takeBackspace l s = s.updAsm l dropGlyph := by
  rw [takeBackspace, if_pos]
  simpa using some

/-! ### What completes a word, or leaves one pending -/

theorem takeDelimiter_eq : takeDelimiter l s =
    if (s.line l).asm.glyphs = [] then s.updAsm l fun a => { a with contPending := false }
    else completeWord l false s := by
  rw [takeDelimiter]; simp only [List.isEmpty_iff]

theorem takeBreak_eq : takeBreak l s =
    if (s.line l).asm.glyphs = [] then s.updAsm l fun a => { a with breakPending := true, contPending := false }
    else completeWord l true s := by
  rw [takeBreak]; simp only [List.isEmpty_iff]

theorem flushWord_eq : flushWord l s = if (s.line l).asm.glyphs = [] then s else completeWord l false s := by
  rw [flushWord]; simp only [List.isEmpty_iff]

theorem takeClearCommand_eq : takeClearCommand l s =
    if ((flushWord l s).line l).asm.held = none then routeMarker l s.pfn (flushWord l s)
    else (flushWord l s).updAsm l fun a => { a with clearPending := some s.pfn } := by
  rw [takeClearCommand]
  by_cases free : ((flushWord l s).line l).asm.held = none
  · rw [if_pos free, stalled_eq_false.mpr free]; rfl
  · rw [if_neg free, Bool.of_not_eq_false (stalled_eq_false.not.mpr free)]; rfl

end

/-- Settles O49: a byte in NORMAL by its class, and a code byte by its value. -/
theorem decoderActs : Obligations.DecoderActs := by
  intro s l i a n glyph fresh freed grown
  have asm : (fresh.line l).asm = a := by rw [line_updLine_same]
  constructor
  · intro normal
    have act := decodeItem_normal (i := i) normal
    have hgrown : appendGlyph s.pfn { glyph := i.value, errored := i.errored } a = grown := appendGlyph_eq ..
    refine ⟨fun isGlyph short => ?_, fun isGlyph long => ?_, fun isDelimiter => ?_, fun isBackspace => ?_,
      fun isLeadIn => ?_, fun noGlyph plain => ?_⟩
    · rw [act, classify_glyph isGlyph]
      dsimp only
      rw [takeGlyph_eq, if_pos short, hgrown]; rfl
    · rw [act, classify_glyph isGlyph]
      dsimp only
      rw [takeGlyph_eq, if_neg (not_lt.mpr long), hgrown]; rfl
    · rw [act, classify_delimiter isDelimiter]
      dsimp only
      rw [takeDelimiter_eq]
      exact ⟨fun empty => if_pos empty, fun some => if_neg some⟩
    · rw [act, classify_backspace isBackspace]
      dsimp only
      refine ⟨fun two => ?_, fun one => ?_⟩
      · rw [takeBackspace_of_word (List.ne_nil_of_length_pos (Nat.lt_of_lt_of_le Nat.zero_lt_two two))]
        refine updLine_congr ?_
        rw [dropGlyph_of_two two]
      · rw [takeBackspace_of_word (List.ne_nil_of_length_pos (Nat.lt_of_lt_of_eq Nat.zero_lt_one one.symm))]
        refine updLine_congr ?_
        rw [dropGlyph_of_one one.le]
    · rw [act, classify_leadIn isLeadIn]
    · rw [act, classify_other noGlyph plain]; rfl
  · intro pending
    have act := decodeItem_pending (i := i) pending
    change decodeItem l i s = if i.errored then discard l fresh else codeAct l n fresh at act
    refine ⟨fun bad => ?_, fun clean => ?_⟩
    · rw [act]
      by_cases errored : i.errored = true
      · rw [if_pos errored]; rfl
      · have unknown := bad.resolve_left errored
        simp only [List.mem_cons, List.not_mem_nil, or_false, not_or] at unknown
        obtain ⟨sp, pp, cp, fp, np, hp⟩ := unknown
        rw [if_neg errored, codeAct, if_neg sp, if_neg pp, if_neg cp, if_neg fp, if_neg np, if_neg hp]; rfl
    · rw [clean, if_neg (by decide)] at act
      refine ⟨fun code => ?_, fun code => ?_, fun code => ?_, fun code empty free => ?_, fun code some => ?_,
        fun code => ?_, fun code => ?_⟩
      · rw [act, code]; rfl
      · rw [act, code, show codeAct l 0x50 fresh = takeBreak l fresh from rfl, takeBreak_eq, asm]
        exact ⟨fun empty => if_pos empty, fun some => if_neg some⟩
      · rw [act, code, show codeAct l 0x46 fresh = flushWord l fresh from rfl, flushWord_eq, asm]
        exact ⟨fun empty => if_pos empty, fun some => if_neg some⟩
      · rw [act, code, show codeAct l 0x43 fresh = takeClearCommand l fresh from rfl, takeClearCommand_eq, flushWord_eq,
          asm, if_pos empty, asm, if_pos free]; rfl
      · rw [act, code, show codeAct l 0x43 fresh = takeClearCommand l fresh from rfl, takeClearCommand_eq, flushWord_eq,
          asm, if_neg some]
        exact ⟨fun free => if_pos free, fun held => if_neg held⟩
      · rw [act, code, show codeAct l 0x4E fresh = takeNext l fresh from rfl, takeNext,
          show attachedService fresh l = attachedService s l from rfl]
        refine ⟨fun v attached => ?_, fun none => ?_⟩
        · rw [attached]; rfl
        · rw [none]
      · rw [act, code, show codeAct l 0x48 fresh = takeHold l fresh from rfl, takeHold,
          show attachedService fresh l = attachedService s l from rfl]
        refine ⟨fun v attached => ?_, fun none => ?_⟩
        · rw [attached]; rfl
        · rw [none]

end Sys2Proof.Machine
end

section
/-! Completed words routed (O50). -/

namespace Sys2Proof.Machine

/-! ### Where a line's words go (R40, R72) -/

section

variable {s : State} {l : LineIx} {v : ServiceIx}

theorem route_none (alone : ∀ v, hasLine (s.service v) l = false) : route s l = .discard := by
  rw [route, feeds_eq_none alone]

theorem route_queue (isolated : LinesIsolated s) (has : hasLine (s.service v) l = true)
    (attached : attachedLine (s.service v) = some l) (live : (s.service v).sel.mode = .live) :
    route s l = .queue v := by
  rw [route, feeds_eq_some isolated has]
  simp [attached, live]

theorem route_script (isolated : LinesIsolated s) (has : hasLine (s.service v) l = true)
    (attached : attachedLine (s.service v) = some l) (script : (s.service v).sel.mode = .script) :
    route s l = .discard := by
  rw [route, feeds_eq_some isolated has]
  simp [attached, script]

theorem route_standby (isolated : LinesIsolated s) (has : hasLine (s.service v) l = true)
    (other : attachedLine (s.service v) ≠ some l) : route s l = .standby v := by
  rw [route, feeds_eq_some isolated has]
  simp [other]

end

/-! ### A completed word (R39, R54) -/

/-- R39, R54: the line when its word has been completed, before the word is routed. -/
def wordDone (l : LineIx) (first : Bool) (s : State) : State :=
  s.updLine l fun x =>
    { x with asm := afterCompletion x.asm
             lat := { x.lat with firstWord := first, lastCompletion := some s.pfn } }

theorem completeWord_eq (l : LineIx) (after : Bool) (s : State) :
    let w := formRecord l s.pfn after (s.line l).asm
    completeWord l after s =
      routeWord l w (wordDone l (isFirstWord s l w (s.line l).asm.retracted.isSome) s) := by
  intro w
  have lat : ((s.updAsm l afterCompletion).line l).lat = (s.line l).lat := by rw [line_updAsm_same]
  have first : isFirstWord (s.updAsm l afterCompletion) l w (s.line l).asm.retracted.isSome =
      isFirstWord s l w (s.line l).asm.retracted.isSome := by
    rw [isFirstWord, isFirstWord, lat]; rfl
  rw [completeWord]
  refine congrArg (routeWord l w) ?_
  rw [testFirstWord, first, wordDone, State.updLat, State.updAsm, updLine_updLine]
  rfl

/-! ### Offers to a queue (R104, R106, R107) -/

/-- Two states that a target frame does not tell apart: PFN, the delay, the estimates of the lines, and the
record, queue and last-left frame of the service. -/
structure TargetsAlike (v : ServiceIx) (s t : State) : Prop where
  pfn : t.pfn = s.pfn
  device : t.device = s.device
  lest : ∀ l, (t.line l).lat.lest = (s.line l).lat.lest
  record : (t.service v).record = (s.service v).record
  queue : (t.service v).sched.queue = (s.service v).sched.queue
  lastLeft : (t.service v).sched.lastLeft = (s.service v).sched.lastLeft

theorem TargetsAlike.raw {v : ServiceIx} {s t : State} (h : TargetsAlike v s t) (b : EntryBody) :
    rawTarget t v b = rawTarget s v b := by
  have term : latencyTerm t b = latencyTerm s b := by cases b <;> simp only [latencyTerm, lsel, h.lest]
  rw [rawTarget, rawTarget, h.device, h.record, term]

theorem TargetsAlike.target {v : ServiceIx} {s t : State} (h : TargetsAlike v s t) (b : EntryBody) (f : Option Frame) :
    targetFrame t v b f = targetFrame s v b f := by
  have prev : prevTarget (t.service v).sched = prevTarget (s.service v).sched := by
    rw [prevTarget, prevTarget, h.queue, h.lastLeft]
  rw [targetFrame, targetFrame, h.raw, h.pfn, prev]

/-- R104, R110: the scheduler that an entry joins, its target and lateness as the state s gives them. -/
def joinedAs (s : State) (v : ServiceIx) (b : EntryBody) (f : Option Frame) (q : Scheduler) : Scheduler :=
  { q with
    queue := q.queue ++ [{ body := b, target := targetFrame s v b f }]
    lastLateness := figure (frameDiff (rawTarget s v b) (targetFrame s v b f))
    maxLateness := maxFigure q.maxLateness (figure (frameDiff (rawTarget s v b) (targetFrame s v b f))) }

/-- R104: a scheduler whose full queue has refused an entry. -/
def refusedBy (q : Scheduler) : Scheduler := { q with fullRefusals := bump q.fullRefusals }

section

variable {s t : State} {v : ServiceIx} {b : EntryBody} {f : Option Frame} {l : LineIx} {w : WordRecord}

theorem offer_room (alike : TargetsAlike v s t) (room : (s.service v).sched.queue.length < 64) :
    offer v b f t = (true, t.updSched v (joinedAs s v b f)) := by
  have room' : hasRoom (t.service v).sched = true := hasRoom_iff.mpr (by rw [alike.queue]; exact room)
  rw [offer, if_pos room', latenessOf, alike.target, alike.raw]
  rfl

theorem offer_full (alike : TargetsAlike v s t) (full : 64 ≤ (s.service v).sched.queue.length) :
    offer v b f t = (false, t.updSched v refusedBy) := by
  have noRoom : ¬ hasRoom (t.service v).sched = true := hasRoom_iff.not.mpr (by rw [alike.queue]; omega)
  rw [offer, if_neg noRoom]
  rfl

/-! ### What routing does with a word and with a marker (R40, R41) -/

theorem joinStandby_room {x : Selection} (room : x.standby.length < 8) :
    joinStandby w x = { x with standby := x.standby ++ [w] } := if_pos room

theorem joinStandby_full {x : Selection} (full : 8 ≤ x.standby.length) :
    joinStandby w x =
      { x with standby := x.standby.tail ++ [w], standbyDropped := bump x.standbyDropped } := if_neg (not_lt.mpr full)

theorem routeWord_discard (away : route t l = .discard) : routeWord l w t = unrouted l t := by
  rw [routeWord, away]

theorem routeWord_standby (away : route t l = .standby v) : routeWord l w t = t.updSel v (joinStandby w) := by
  rw [routeWord, away]

theorem routeWord_room (goes : route t l = .queue v) (alike : TargetsAlike v s t)
    (room : (s.service v).sched.queue.length < 64) :
    routeWord l w t =
      let joined := t.updSched v (joinedAs s v (.word w) w.floor)
      if (t.line l).lat.firstWord then pairOnset l v w.arrival joined else joined := by
  rw [routeWord, goes]
  dsimp only
  rw [offer_room alike room]
  rfl

theorem routeWord_full (goes : route t l = .queue v) (alike : TargetsAlike v s t)
    (full : 64 ≤ (s.service v).sched.queue.length) :
    routeWord l w t = holdItem l (.word w) v (t.updSched v refusedBy) := by
  rw [routeWord, goes]
  dsimp only
  rw [offer_full alike full]
  rfl

end

/-! ### First words (R54) -/

theorem isFirstWord_away {s : State} {l : LineIx} {w : WordRecord} {reopened : Bool}
    (away : ∀ v, route s l ≠ .queue v) : isFirstWord s l w reopened = false := by
  rw [isFirstWord]
  split
  · next v goes => exact absurd goes (away v)
  · rfl

theorem isFirstWord_queue {s : State} {l : LineIx} {v : ServiceIx} {w : WordRecord} {reopened : Bool}
    (goes : route s l = .queue v) :
    isFirstWord s l w reopened = true ↔ reopened = false ∧ (∀ g ∈ w.glyphs, g.errored = false) ∧
      ∀ f, (s.line l).lat.lastCompletion = some f → ((s.service v).record.gap : Int) ≤ frameDiff f s.pfn := by
  have clean : substituted w = false ↔ ∀ g ∈ w.glyphs, g.errored = false := by simp [substituted]
  rw [isFirstWord, goes]
  dsimp only
  rw [Bool.and_eq_true, Bool.and_eq_true, Bool.not_eq_true', Bool.not_eq_true', clean, and_assoc]
  cases (s.line l).lat.lastCompletion <;> simp

theorem targetsAlike_wordDone (v : ServiceIx) (l : LineIx) (first : Bool) (s : State) :
    TargetsAlike v s (wordDone l first s) where
  pfn := rfl
  device := rfl
  lest m := by
    rw [wordDone, line_updLine]
    split
    · next same => rw [same]
    · rfl
  record := rfl
  queue := rfl
  lastLeft := rfl

/-- Settles O50: the record of the completed word, and its routing case by case. -/
theorem wordIsRouted : Obligations.WordIsRouted := by
  intro s l after isolated a w done
  have record : formRecord l s.pfn after a = w := rfl
  have completed := completeWord_eq l after s
  dsimp only at completed
  rw [show (s.line l).asm = a from rfl, record] at completed
  have stays (first : Bool) : wordDone l first s = done first a.held false := rfl
  have loses (away : route s l = .discard) : completeWord l after s = done false a.held true := by
    rw [completed, isFirstWord_away fun v => by rw [away]; exact nofun, routeWord_discard (t := wordDone l false s) away, unrouted, wordDone,
      State.updAsm, updLine_updLine]
    rfl
  refine ⟨fun alone => loses (route_none alone), fun v has => ?_⟩
  intro x first target late joined
  have onStandby (other : attachedLine x ≠ some l) :
      completeWord l after s = (done false a.held false).updSel v (joinStandby w) := by
    have goes := route_standby isolated has other
    rw [completed, isFirstWord_away fun v => by rw [goes]; exact nofun,
      routeWord_standby (t := wordDone l false s) goes, stays]
  have isFirst (goes : route s l = .queue v) : isFirstWord s l w a.retracted.isSome = first := by
    rw [Bool.eq_iff_iff, isFirstWord_queue goes, Option.isSome_eq_false_iff, Option.isNone_iff_eq_none]
    exact decide_eq_true_iff.symm
  refine ⟨fun attached live room => ?_, fun attached live full => ?_, fun attached script => ?_,
    fun other room => ?_, fun other full => ?_⟩
  · have goes := route_queue isolated has attached live
    have marked : ((wordDone l first s).line l).lat.firstWord = first := by rw [wordDone, line_updLine_same]
    rw [completed, isFirst goes, routeWord_room (t := wordDone l first s) goes (targetsAlike_wordDone v l first s) room]
    dsimp only
    rw [marked]
    rfl
  · have goes := route_queue isolated has attached live
    rw [completed, isFirst goes, routeWord_full (t := wordDone l first s) goes (targetsAlike_wordDone v l first s) full]
    have held : (wordDone l first s).updAsm l (fun a => { a with held := some { item := .word w, on := v } }) =
        done first (some { item := .word w, on := v }) false := by
      rw [wordDone, State.updAsm, updLine_updLine]; rfl
    rw [← held]
    rfl
  · exact loses (route_script isolated has attached script)
  · rw [onStandby other]
    refine updService_congr ?_
    exact congrArg (fun y => { x with sel := y }) (joinStandby_room room)
  · rw [onStandby other]
    refine updService_congr ?_
    exact congrArg (fun y => { x with sel := y }) (joinStandby_full full)

end Sys2Proof.Machine
end

section
/-! Held items looked at again (O54). -/

namespace Sys2Proof.Machine

section

variable {s t : State} {v : ServiceIx} {b : EntryBody} {f : Option Frame} {l : LineIx} {w : WordRecord} {a : Frame}

/-! ### Markers routed (R40, R42) -/

theorem routeMarker_room (goes : route t l = .queue v) (alike : TargetsAlike v s t)
    (room : (s.service v).sched.queue.length < 64) :
    routeMarker l a t = t.updSched v (joinedAs s v (.clear l a) none) := by
  rw [routeMarker, goes]
  dsimp only
  rw [offer_room alike room]
  rfl

theorem routeMarker_full (goes : route t l = .queue v) (alike : TargetsAlike v s t)
    (full : 64 ≤ (s.service v).sched.queue.length) :
    routeMarker l a t = holdItem l (.marker a) v (t.updSched v refusedBy) := by
  rw [routeMarker, goes]
  dsimp only
  rw [offer_full alike full]
  rfl

theorem routeMarker_away (away : ∀ v, route t l ≠ .queue v) : routeMarker l a t = unrouted l t := by
  rw [routeMarker]
  split
  · next v goes => exact absurd goes (away v)
  · rfl

/-- R72: a line's words go to no queue when its service has another line attached, or is in SCRIPT mode. -/
theorem route_away (isolated : LinesIsolated s) (has : hasLine (s.service v) l = true)
    (away : attachedLine (s.service v) ≠ some l ∨ (s.service v).sel.mode = .script) (u : ServiceIx) :
    route s l ≠ .queue u := by
  by_cases attached : attachedLine (s.service v) = some l
  · rw [route_script isolated has attached (away.resolve_left (not_not.mpr attached))]; exact nofun
  · rw [route_standby isolated has attached]; exact nofun

theorem TargetsAlike.refl (v : ServiceIx) (s : State) : TargetsAlike v s s := ⟨rfl, rfl, fun _ => rfl, rfl, rfl, rfl⟩

theorem targetsAlike_updAsm (v : ServiceIx) (l : LineIx) (g : Assembler → Assembler) (s : State) :
    TargetsAlike v s (s.updAsm l g) where
  pfn := rfl
  device := rfl
  lest m := by
    rw [line_updAsm]
    split
    · next same => rw [same]
    · rfl
  record := rfl
  queue := rfl
  lastLeft := rfl

/-! ### A held item that leaves, or stays (R41) -/

/-- R41: the line with nothing held, and what was pending behind the held item routed. -/
theorem endStall_eq (l : LineIx) (u : State) :
    endStall l u = match (u.line l).asm.clearPending with
      | some f => routeMarker l f (u.updAsm l fun y => { y with held := none, clearPending := none })
      | none => u.updAsm l fun y => { y with held := none, clearPending := none } := by
  rw [endStall] <;> cases (u.line l).asm.clearPending <;> rfl

theorem retryWord_room (goes : route t l = .queue v) (alike : TargetsAlike v s t)
    (room : (s.service v).sched.queue.length < 64) :
    retryWord l w t =
      let joined := t.updSched v (joinedAs s v (.word w) w.floor)
      endStall l (if (t.line l).lat.firstWord then pairOnset l v w.arrival joined else joined) := by
  rw [retryWord, goes]
  dsimp only
  rw [offer_room alike room]
  rfl

theorem retryWord_full (goes : route t l = .queue v) (alike : TargetsAlike v s t)
    (full : 64 ≤ (s.service v).sched.queue.length) :
    retryWord l w t = holdItem l (.word w) v (t.updSched v refusedBy) := by
  rw [retryWord, goes]
  dsimp only
  rw [offer_full alike full]
  rfl

theorem retryWord_standby (goes : route t l = .standby v) :
    retryWord l w t = endStall l (clearMark l (t.updSel v (joinStandby w))) := by rw [retryWord, goes]

theorem retryWord_discard (goes : route t l = .discard) :
    retryWord l w t = endStall l (clearMark l (unrouted l t)) := by rw [retryWord, goes]

theorem retryMarker_room (goes : route t l = .queue v) (alike : TargetsAlike v s t)
    (room : (s.service v).sched.queue.length < 64) :
    retryMarker l a t = endStall l (t.updSched v (joinedAs s v (.clear l a) none)) := by
  rw [retryMarker, goes]
  dsimp only
  rw [offer_room alike room]
  rfl

theorem retryMarker_full (goes : route t l = .queue v) (alike : TargetsAlike v s t)
    (full : 64 ≤ (s.service v).sched.queue.length) :
    retryMarker l a t = holdItem l (.marker a) v (t.updSched v refusedBy) := by
  rw [retryMarker, goes]
  dsimp only
  rw [offer_full alike full]
  rfl

theorem retryMarker_away (away : ∀ v, route t l ≠ .queue v) :
    retryMarker l a t = endStall l (unrouted l t) := by
  rw [retryMarker]
  split
  · next v goes => exact absurd goes (away v)
  · rfl

end

/-- The lowest line that owes a retry takes it once the builders have nothing to do. -/
theorem react_of_retry {s : State} {l : LineIx} (builders : ∀ v, builderReact v s = none)
    (before : ∀ m < l, (s.line m).asm.retryOwed = false) (owed : (s.line l).asm.retryOwed = true) :
    react s = some (retryHeld l s) := by
  have noBuilder : firstOf (fun v => builderReact v s) = none := firstOf_eq_none.mpr builders
  have retry : firstOf (fun l => retryReact l s) = some (retryHeld l s) :=
    firstOf_eq_some (i := l) (fun m lower => by rw [retryReact, before m lower]; rfl) (if_pos owed)
  rw [react, noBuilder, retry]; rfl

theorem asm_updSched (s : State) (v : ServiceIx) (f : Scheduler → Scheduler) (l : LineIx) :
    ((s.updSched v f).line l).asm = (s.line l).asm := rfl

theorem stalled_eq_true {s : State} {l : LineIx} : stalled s l = true ↔ (s.line l).asm.held ≠ none := by
  rw [stalled, Option.isSome_iff_ne_none]

/-- Settles O54: the retry taken, and what it does with a word and a marker by their routing. -/
theorem heldWordRetried : Obligations.HeldWordRetried := by
  refine ⟨?_, fun s l => react_of_retry, ?_, ?_⟩
  · intro s l awake isDue taken
    have run : exec (.heldWordRetry l) s = .next (settle (frameRetry l taken)) := by
      rw [exec_of_work awake rfl]
      exact congrArg Host.Outcome.next (doWork_of_due isDue)
    refine ⟨fun free => ?_, fun held => ?_⟩
    · rw [run, frameRetry, if_neg]
      rw [stalled_eq_true]; exact not_not.mpr free
    · rw [run, frameRetry, if_pos (stalled_eq_true (s := taken).mpr held)]
  · intro s l isolated a looked unheld goesOn lost unmarked refused joined
    have seen : (looked.line l).asm = { a with retryOwed := false } := by rw [line_updAsm_same]
    have goes_on {u : State} (pending : (u.line l).asm.clearPending = a.clearPending) : endStall l u = goesOn u := by
      rw [endStall_eq, pending] <;> rfl
    have leaves {u : State} (pending : (u.line l).asm.clearPending = a.clearPending) :
        endStall l (clearMark l u) = goesOn (unmarked u) :=
      goes_on (by rw [clearMark, line_updLat_same]; exact pending)
    have gone : unrouted l looked = lost := rfl
    have unroutedPending : (lost.line l).asm.clearPending = a.clearPending := by
      rw [line_updAsm_same, seen]
    have alike (v : ServiceIx) : TargetsAlike v s looked := targetsAlike_updAsm ..
    refine ⟨fun w on held => ?_, fun f on held => ?_⟩
    · have retried : retryHeld l s = retryWord l w looked := by rw [retryHeld, held]
      have discarded (goes : route s l = .discard) : retryHeld l s = goesOn (unmarked lost) := by
        rw [retried, retryWord_discard (t := looked) goes, gone]
        exact leaves unroutedPending
      refine ⟨fun alone => discarded (route_none alone), fun v has => ?_⟩
      intro x
      have onStandby {g : Selection → Selection} (other : attachedLine x ≠ some l)
          (stands : joinStandby w x.sel = g x.sel) : retryHeld l s = goesOn (unmarked (looked.updSel v g)) := by
        have joins : looked.updSel v (joinStandby w) = looked.updSel v g :=
          updService_congr (congrArg (fun y => { x with sel := y }) stands)
        rw [retried, retryWord_standby (t := looked) (route_standby isolated has other), joins]
        exact leaves (by rw [show ((looked.updSel v g).line l).asm = (looked.line l).asm from rfl, seen])
      refine ⟨fun attached live room => ?_, fun attached live full => ?_, fun attached script => ?_,
        fun other room => onStandby other (joinStandby_room room), fun other full => onStandby other (joinStandby_full full)⟩
      · have marked : (looked.line l).lat.firstWord = (s.line l).lat.firstWord := by rw [line_updAsm_same]
        rw [retried, retryWord_room (t := looked) (route_queue isolated has attached live) (alike v) room]
        dsimp only
        rw [marked]
        refine goes_on ?_
        split
        · rw [asm_pairOnset, asm_updSched, seen]
        · rw [asm_updSched, seen]
      · rw [retried, retryWord_full (t := looked) (route_queue isolated has attached live) (alike v) full]
        rfl
      · exact discarded (route_script isolated has attached script)
    · have retried : retryHeld l s = retryMarker l f looked := by rw [retryHeld, held]
      have discarded (goes : ∀ v, route s l ≠ .queue v) : retryHeld l s = goesOn lost := by
        rw [retried, retryMarker_away (t := looked) goes, gone]
        exact goes_on unroutedPending
      refine ⟨fun alone => discarded fun v => by rw [route_none alone]; exact nofun, fun v has => ⟨fun attached live room => ?_,
        fun attached live full => ?_, fun away => discarded (route_away isolated has away)⟩⟩
      · rw [retried, retryMarker_room (t := looked) (route_queue isolated has attached live) (alike v) room]
        exact goes_on (by rw [asm_updSched, seen])
      · rw [retried, retryMarker_full (t := looked) (route_queue isolated has attached live) (alike v) full]
        rfl
  · intro s l f isolated lost
    refine ⟨fun alone => routeMarker_away fun v => by rw [route_none alone]; exact nofun, fun v has => ?_⟩
    intro x target late
    exact ⟨fun attached live room => routeMarker_room (route_queue isolated has attached live) (.refl v s) room,
      fun attached live full => routeMarker_full (route_queue isolated has attached live) (.refl v s) full,
      fun away => routeMarker_away (route_away isolated has away)⟩

end Sys2Proof.Machine
end

section
/-! A backspace on an empty word, and the onsets (O51, O52). -/

namespace Sys2Proof.Machine

/-! ### A word taken back (R44) -/

/-- R44: the assembler with a word taken back, its last glyph gone, or with the flags of a word that is gone. -/
def takenBack (v : ServiceIx) (w : WordRecord) (t f : Frame) (a : Assembler) : Assembler :=
  if 2 ≤ w.glyphs.length then
    { a with
      glyphs := w.glyphs.dropLast, first := some f
      retracted := some { service := v, arrival := w.arrival, floor := t }
      carriedSpeaker := w.speaker, carriedBreak := w.breakBefore, carriedCont := w.cont
      retractions := bump a.retractions }
  else
    { a with
      glyphs := [], first := none, retracted := none, carriedSpeaker := false
      carriedBreak := false, carriedCont := false
      speakerPending := a.speakerPending || w.speaker
      breakPending := a.breakPending || w.breakBefore
      contPending := a.contPending || w.cont, retractions := bump a.retractions }

theorem reopen_eq (v : ServiceIx) (w : WordRecord) (t f : Frame) (a : Assembler) :
    reopen v w t f a = takenBack v w t f a := by
  rw [reopen, takenBack]
  split
  · next two => rw [dropGlyph_of_two two]
  · next one => rw [dropGlyph_of_one (Nat.lt_succ_iff.mp (not_le.mp one))]

theorem takenBack_retryOwed (v : ServiceIx) (w : WordRecord) (t f : Frame) (a : Assembler) (b : Bool) :
    takenBack v w t f { a with retryOwed := b } = { takenBack v w t f a with retryOwed := b } := by
  rw [takenBack, takenBack]; split <;> rfl

/-! ### Which word comes back (R44, R47) -/

section

variable {x : Service} {l : LineIx}

theorem youngestFor_queue {e : Entry} {w : WordRecord} (last : x.sched.queue.getLast? = some e)
    (body : e.body = .word w) (own : w.line = l) : youngestFor x l = .inQueue e w := by
  rw [youngestFor, last]
  dsimp only
  rw [body]
  exact if_pos own

theorem youngestFor_other {e : Entry} (last : x.sched.queue.getLast? = some e)
    (other : ∀ w, e.body = .word w → w.line ≠ l) : youngestFor x l = .none := by
  rw [youngestFor, last]
  dsimp only
  cases body : e.body with
  | word w => exact if_neg (other w body)
  | clear => rfl
  | cue => rfl

theorem youngestFor_block {p : Placed} (empty : x.sched.queue = [])
    (last : x.cb.openBlock.words.getLast? = some p) (whole : p.whole = true) (own : p.word.line = l) :
    youngestFor x l = .inBlock p := by
  rw [youngestFor, empty, List.getLast?_nil, last]
  exact if_pos ⟨whole, own⟩

theorem youngestFor_none (empty : x.sched.queue = [])
    (other : ∀ p, x.cb.openBlock.words.getLast? = some p → p.whole = false ∨ p.word.line ≠ l) :
    youngestFor x l = .none := by
  rw [youngestFor, empty, List.getLast?_nil]
  dsimp only
  cases last : x.cb.openBlock.words.getLast? with
  | none => rfl
  | some p =>
    refine if_neg ?_
    rintro ⟨whole, own⟩
    rcases other p last with h | h
    · rw [whole] at h; exact Bool.noConfusion h
    · exact h own

end

/-! ### What leaves the queue of a service by its tail -/

section

variable {s : State} {v : ServiceIx} {e : Entry}

theorem line_dropTail (m : LineIx) :
    (dropTail v e s).line m = { s.line m with asm := { (s.line m).asm with
      retryOwed := if (s.line m).asm.held.map Held.on = some v then true else (s.line m).asm.retryOwed } } := by
  show (s.lines.map (oweRetry v)).get m = _
  rw [Quad.get_map]
  show oweRetry v (s.line m) = _
  rw [oweRetry_eq]
  split <;> rfl

theorem service_dropTail :
    (dropTail v e s).service v = { s.service v with sched := { (s.service v).sched with
      queue := (s.service v).sched.queue.dropLast, lastLeft := some e.target } } := by
  have both : (dropTail v e s).service v =
      ((s.updSched v fun q => { q with queue := q.queue.dropLast }).updSched v fun q =>
        { q with lastLeft := some e.target }).service v := rfl
  rw [both, service_updSched_same, service_updSched_same]

theorem service_dropTail_ne {u : ServiceIx} (other : u ≠ v) : (dropTail v e s).service u = s.service u := by
  have both : (dropTail v e s).service u =
      ((s.updSched v fun q => { q with queue := q.queue.dropLast }).updSched v fun q =>
        { q with lastLeft := some e.target }).service u := rfl
  rw [both, service_updSched, if_neg other, service_updSched, if_neg other]

end

/-! ### The backspace on an empty word (R44, R47) -/

section

variable {s : State} {l : LineIx} {v : ServiceIx}

theorem takeBackspace_unattached (empty : (s.line l).asm.glyphs = []) (none : attachedService s l = .none) :
    takeBackspace l s = lateCorrection l s := by
  rw [takeBackspace, empty, none]; rfl

theorem takeBackspace_attached (empty : (s.line l).asm.glyphs = []) (on : attachedService s l = some v) :
    takeBackspace l s = match youngestFor (s.service v) l with
      | .inQueue e w => reopenWord l v w e.target (dropTail v e s)
      | .inBlock p => reopenWord l v p.word p.target (updOpen v unplace s)
      | .none => lateCorrection l s := by
  rw [takeBackspace, empty, on] <;> rfl

theorem line_reopenWord_dropTail (e : Entry) (w : WordRecord) :
    (reopenWord l v w e.target (dropTail v e s)).line l =
      { s.line l with asm := { takenBack v w e.target (reopenedFirst s) (s.line l).asm with
        retryOwed := if (s.line l).asm.held.map Held.on = some v then true else (s.line l).asm.retryOwed } } := by
  have reopened : (reopenWord l v w e.target (dropTail v e s)).line l =
      ((dropTail v e s).updAsm l (reopen v w e.target (reopenedFirst s))).line l := rfl
  rw [reopened, line_updAsm_same, line_dropTail, reopen_eq, takenBack_retryOwed]

theorem line_reopenWord_dropTail_ne (e : Entry) (w : WordRecord) {m : LineIx} (other : m ≠ l) :
    (reopenWord l v w e.target (dropTail v e s)).line m = (dropTail v e s).line m := by
  have reopened : (reopenWord l v w e.target (dropTail v e s)).line m =
      ((dropTail v e s).updAsm l (reopen v w e.target (reopenedFirst s))).line m := rfl
  rw [reopened, line_updAsm, if_neg other]

theorem unplace_of_last {o : OpenBlock} {p : Placed} (last : o.words.getLast? = some p) :
    unplace o = { words := o.words.dropLast, rows := p.before, carry := none
                  closing := if o.words.length = 1 then none else o.closing
                  expiring := o.expiring && decide (o.words.length ≠ 1) } := by
  rw [unplace, last]

end

/-- Settles O51, by where the youngest entry of the line's service stands. -/
theorem backspaceReachesBack : Obligations.BackspaceReachesBack := by
  intro s l i normal backspace empty a late first back
  have taken : decodeItem l i s = takeBackspace l s := by
    rw [decodeItem_normal normal, classify_backspace (congrArg BitVec.toNat backspace)]
  have backIs (v : ServiceIx) (w : WordRecord) (t : Frame) : back v w t = takenBack v w t first a := rfl
  refine ⟨reopenedFirst_past s, fun none => ?_, fun v on => ?_⟩
  · rw [taken, takeBackspace_unattached empty none]; rfl
  · rw [taken, takeBackspace_attached empty on]
    refine ⟨fun e w last body own => ?_, fun e last other => ?_, fun p none last whole own => ?_,
      fun none other => ?_⟩
    · rw [youngestFor_queue last body own]
      dsimp only
      refine ⟨_, rfl, rfl, ?_, service_dropTail, fun j apart => service_dropTail_ne apart.symm, ?_,
        fun m other => ?_, rfl⟩
      · rw [settings_reopenWord, settings_dropTail]
      · exact line_reopenWord_dropTail e w
      · rw [line_reopenWord_dropTail_ne e w other, line_dropTail]
    · rw [youngestFor_other last other]; rfl
    · rw [youngestFor_block none last whole own]
      dsimp only
      have opened : updOpen v unplace s = s.updCb v fun c => { c with openBlock :=
          { words := c.openBlock.words.dropLast, rows := p.before, carry := .none
            closing := if c.openBlock.words.length = 1 then .none else c.openBlock.closing
            expiring := c.openBlock.expiring && decide (c.openBlock.words.length ≠ 1) } } := by
        rw [updOpen]
        refine updService_congr ?_
        dsimp only
        rw [unplace_of_last last]
      rw [reopenWord, opened]
      refine congrArg (fun u : State => { u with draws := s.draws + 1 }) (updLine_congr ?_)
      rw [backIs, reopen_eq]; rfl
    · rw [youngestFor_none none other]; rfl

/-! ### The onset list (R52) -/

section

variable {p o a b : Frame} {ps : List Frame}

theorem frameDiff_eq_zero : frameDiff a b = 0 ↔ a = b := by
  rw [frameDiff, ← BitVec.toInt_zero, BitVec.toInt_inj]
  bv_omega

/-- Of two frames near a third the order is that of their distances. -/
theorem Near.strictlyBefore_iff (ha : Near p a) (hb : Near p b) :
    strictlyBefore a b = true ↔ frameDiff p a < frameDiff p b := by
  rw [strictlyBefore, decide_eq_true_iff, ha.frameDiff_eq hb]; omega

theorem Near.before_of_not (ha : Near p a) (hb : Near p b) (apart : a ≠ b) (not : ¬ strictlyBefore a b = true) :
    strictlyBefore b a = true := by
  have differ : frameDiff a b ≠ 0 := fun h => apart (frameDiff_eq_zero.mp h)
  rw [ha.strictlyBefore_iff hb] at not
  rw [ha.frameDiff_eq hb] at differ
  rw [hb.strictlyBefore_iff ha]
  omega

theorem insertFrame_perm (o : Frame) (ps : List Frame) : (insertFrame o ps).Perm (o :: ps) := by
  induction ps with
  | nil => exact .refl _
  | cons q qs ih =>
    rw [insertFrame]; split
    · exact .refl _
    · exact (ih.cons q).trans (.swap o q qs)

/-- The onsets stand in the order of their frames. -/
def InOrder (ps : List Frame) : Prop := ps.Pairwise fun y z => strictlyBefore y z = true

theorem inOrder_insertFrame (near : ∀ y ∈ o :: ps, Near p y) (new : o ∉ ps) (order : InOrder ps) :
    InOrder (insertFrame o ps) := by
  induction ps with
  | nil => exact List.pairwise_singleton ..
  | cons q qs ih =>
    obtain ⟨first, rest⟩ := List.pairwise_cons.mp order
    have atO := near o List.mem_cons_self
    have atQ := near q (List.mem_cons_of_mem _ List.mem_cons_self)
    rw [insertFrame]
    split
    · next before =>
      refine List.pairwise_cons.mpr ⟨fun y mem => ?_, order⟩
      rcases List.mem_cons.mp mem with rfl | mem
      · exact before
      · have atY := near y (List.mem_cons_of_mem _ (List.mem_cons_of_mem _ mem))
        have after := first y mem
        rw [atO.strictlyBefore_iff atY]
        exact ((atO.strictlyBefore_iff atQ).mp before).trans ((atQ.strictlyBefore_iff atY).mp after)
    · next after =>
      have qBefore := atO.before_of_not atQ (fun h => new (h ▸ List.mem_cons_self)) after
      refine List.pairwise_cons.mpr ⟨fun y mem => ?_, ih (fun y mem => near y ?_)
        (fun mem => new (List.mem_cons_of_mem _ mem)) rest⟩
      · rcases List.mem_cons.mp ((insertFrame_perm o qs).mem_iff.mp mem) with rfl | mem
        · exact qBefore
        · exact first y mem
      · rcases List.mem_cons.mp mem with rfl | mem
        · exact List.mem_cons_self
        · exact List.mem_cons_of_mem _ (List.mem_cons_of_mem _ mem)

variable {x : Onsets}

theorem admitOnset_held (held : o ∈ x.frames) : admitOnset o x = x := by
  rw [admitOnset, if_pos (List.contains_iff_mem.mpr held)]

theorem admitOnset_room (new : o ∉ x.frames) (room : x.frames.length < 8) :
    admitOnset o x = { x with frames := insertFrame o x.frames, admitted := bump x.admitted } := by
  rw [admitOnset, if_neg (fun h => new (List.contains_iff_mem.mp h))]
  exact if_pos room

theorem admitOnset_full (new : o ∉ x.frames) (held : x.frames = p :: ps) (full : 8 ≤ x.frames.length) :
    admitOnset o x =
      if strictlyBefore p o then
        { x with frames := insertFrame o ps, admitted := bump x.admitted, dropped := bump x.dropped }
      else { x with dropped := bump x.dropped } := by
  rw [admitOnset, if_neg (fun h => new (List.contains_iff_mem.mp h)),
    if_neg (Nat.not_lt.mpr full : ¬ x.frames.length < Config.onsetCapacity), held]

theorem inOrder_admitOnset (near : ∀ y ∈ o :: x.frames, Near b y) (order : InOrder x.frames) :
    InOrder (admitOnset o x).frames := by
  by_cases held : o ∈ x.frames
  · rw [admitOnset_held held]; exact order
  by_cases room : x.frames.length < 8
  · rw [admitOnset_room held room]; exact inOrder_insertFrame near held order
  cases frames : x.frames with
  | nil => rw [frames] at room; exact absurd (by decide) room
  | cons p ps =>
    rw [frames] at order near
    rw [admitOnset_full held frames (Nat.not_lt.mp room)]
    split
    · refine inOrder_insertFrame (fun y mem => near y ?_) (fun mem => held ?_) order.tail
      · rcases List.mem_cons.mp mem with rfl | mem
        · exact List.mem_cons_self
        · exact List.mem_cons_of_mem _ (List.mem_cons_of_mem _ mem)
      · rw [frames]; exact List.mem_cons_of_mem _ mem
    · show InOrder x.frames; rw [frames]; exact order

end

/-! ### The pairing of a first word (R56) -/

section

variable {s : State} {l : LineIx} {v : ServiceIx} {arrival : Frame} {stale live : List Frame}

/-- R56: the onsets older than Lmax leave the list, each counted. -/
def onsetsAged (v : ServiceIx) (rest : List Frame) (n : Nat) (s : State) : State :=
  s.updOnsets v fun x => { x with frames := rest, expired := bumpBy x.expired n }

theorem aged_split (held : (s.service v).onsets.frames = stale ++ live)
    (old : ∀ o ∈ stale, strictlyBefore o arrival = true)
    (young : ∀ o ∈ live, strictlyBefore o arrival = false) :
    ((s.service v).onsets.frames.filter fun o => !strictlyBefore o arrival) = live ∧
      ((s.service v).onsets.frames.countP fun o => strictlyBefore o arrival) = stale.length := by
  rw [held, List.filter_append, List.countP_append, List.countP_eq_length.mpr old,
    List.countP_eq_zero.mpr fun o mem => by rw [young o mem]; decide,
    List.filter_eq_nil_iff.mpr fun o mem => by rw [old o mem]; decide,
    List.filter_eq_self.mpr fun o mem => by rw [young o mem]; rfl]
  exact ⟨rfl, rfl⟩

theorem pairOnset_eq (held : (s.service v).onsets.frames = stale ++ live)
    (old : ∀ o ∈ stale, strictlyBefore o (moved arrival (-((s.line l).record.lmax : Int))) = true)
    (young : ∀ o ∈ live, strictlyBefore o (moved arrival (-((s.line l).record.lmax : Int))) = false) :
    pairOnset l v arrival s = match live with
      | o :: rest =>
        if atOrBefore o (moved arrival (-((s.line l).record.lmin : Int))) then
          ((onsetsAged v live stale.length s).updOnsets v fun x => { x with frames := rest }).updLat l
            (takeSample (s.line l).record.adaptive (frameDiff o arrival).toNat)
        else (onsetsAged v live stale.length s).updLat l fun x => { x with unpaired := bump x.unpaired, firstWord := false }
      | [] => (onsetsAged v live stale.length s).updLat l fun x =>
          { x with unpaired := bump x.unpaired, firstWord := false } := by
  obtain ⟨filtered, counted⟩ := aged_split held old young
  rw [pairOnset, filtered, counted]
  cases live <;> rfl

theorem onsetsAged_frames (rest : List Frame) (n : Nat) :
    ((onsetsAged v live n s).updOnsets v fun x => { x with frames := rest }) = onsetsAged v rest n s := by
  rw [onsetsAged, onsetsAged, State.updOnsets, State.updOnsets, State.updOnsets, updService_updService]

end

/-- Settles O52. -/
theorem onsetsAdmittedAndPaired : Obligations.OnsetsAdmittedAndPaired := by
  refine ⟨fun o x => ⟨admitOnset_held, fun new room => ?_, fun p ps new held full => ⟨fun before => ?_, fun after => ?_⟩,
    fun base near order => inOrder_admitOnset near order⟩, fun s l v arrival stale live => ?_⟩
  · rw [admitOnset_room new room]; exact ⟨insertFrame_perm o x.frames, rfl⟩
  · rw [admitOnset_full new held full, if_pos before]; exact ⟨insertFrame_perm o ps, rfl⟩
  · rw [admitOnset_full new held full, if_neg (by rw [after]; decide)]
  · intro r held old young aged
    have pairing := pairOnset_eq held old young
    refine ⟨?_, fun outside => ?_⟩
    · rintro o rest rfl inside
      rw [pairing]
      dsimp only
      rw [if_pos inside, onsetsAged_frames]
      rfl
    · rw [pairing]
      cases live with
      | nil => rfl
      | cons o rest =>
        dsimp only
        rw [if_neg (by rw [outside o rest rfl]; decide)]
        rfl

end Sys2Proof.Machine
end

section
/-! The frame-start work on words, onsets, standby holds and timed cues (O53, O57). -/

namespace Sys2Proof.Machine

/-! ### A piece of work named by its command -/

section

variable {s : State} {c : Instr} {w : Work}

/-- The state that a piece of work finds: the piece is no longer due. -/
def taking (w : Work) (s : State) : State := { s with due := s.due.erase w }

theorem exec_of_alone (awake : s.resetLow = false) (named : c.work = some w) (due : w ∈ s.due)
    (hold : ∀ v, w = .holdEnd v → Work.ageOut v ∉ s.due ∧ Work.silence v ∉ s.due)
    (silence : ∀ v, w = .silence v → Work.ageOut v ∉ s.due ∧ Work.holdEnd v ∉ s.due) :
    exec c s = .next (settle (perform w (taking w s))) := by
  rw [exec_of_work awake named, runWork_of_alone hold silence, doWork_of_due due]; rfl

end

theorem resetLow_doWork (w : Work) (s : State) : (doWork w s).resetLow = s.resetLow :=
  congrArg Settings.resetLow (settings_doWork w s)

/-! ### The flush delay, the onsets and the standby words (R38, R53, R75) -/

section

variable {s : State} {l : LineIx} {v : ServiceIx}

theorem checkFlush_eq : checkFlush l s =
    if ((s.line l).record.flushDelay : Int) ≤ frameDiff (s.line l).stamp s.pfn ∧ (s.line l).asm.glyphs ≠ []
    then completeWord l false s else s := by
  rw [checkFlush, silenceOf, flushWord_eq]
  by_cases silent : ((s.line l).record.flushDelay : Int) ≤ frameDiff (s.line l).stamp s.pfn
  · by_cases empty : (s.line l).asm.glyphs = []
    · rw [if_pos silent, if_pos empty, if_neg fun h => h.2 empty]
    · rw [if_pos silent, if_neg empty, if_pos ⟨silent, empty⟩]
  · rw [if_neg silent, if_neg fun h => silent h.1]

/-- Not to be above a number is to be at or below it. -/
theorem decide_le_eq_not (a b : Int) : decide (a ≤ b) = !decide (b < a) := by
  rw [← decide_not]; exact decide_eq_decide.mpr not_lt.symm

theorem decide_lt_eq_not (a b : Int) : decide (a < b) = !decide (b ≤ a) := by
  rw [← decide_not]; exact decide_eq_decide.mpr not_le.symm

theorem expireOnsets_eq : expireOnsets v s = s.updOnsets v fun x =>
    { x with
      frames := x.frames.filter fun o => !decide (1023 < frameDiff o s.pfn)
      expired := bumpBy x.expired (x.frames.countP fun o => decide (1023 < frameDiff o s.pfn)) } := by
  simp only [← decide_le_eq_not]; rfl

theorem ageOut_on (on : (s.service v).record.enabled = true) (fs : (s.service v).record.fs ≠ 0) :
    ageOut v s = s.updSel v fun x =>
      { x with
        standby := x.standby.filter fun w => !decide (((s.service v).record.fs : Int) ≤ frameDiff w.arrival s.pfn)
        standbyExpired := bumpBy x.standbyExpired
          (x.standby.countP fun w => decide (((s.service v).record.fs : Int) ≤ frameDiff w.arrival s.pfn)) } := by
  simp only [ageOut, on, Bool.true_and, decide_eq_true fs, if_pos, decide_lt_eq_not]

theorem ageOut_off (off : (s.service v).record.enabled = false ∨ (s.service v).record.fs = 0) :
    ageOut v s = s := by
  rw [ageOut]
  refine if_neg ?_
  rw [Bool.and_eq_true, decide_eq_true_iff]
  rintro ⟨on, fs⟩
  rcases off with h | h
  · rw [h] at on; exact Bool.noConfusion on
  · exact fs h

/-! ### The end of a hold (R81) -/

theorem holdExpired_iff : holdExpired s v = true ↔ (s.service v).record.enabled = true ∧
    ∃ f, (s.service v).sel.hold = some f ∧ ((s.service v).record.fh : Int) ≤ frameDiff f s.pfn := by
  rw [holdExpired, Bool.and_eq_true]
  cases (s.service v).sel.hold <;> simp

theorem exec_hold (awake : s.resetLow = false) : exec (.stenographerHoldExpiry v) s =
    .next (runWork (.holdEnd v) s) := exec_of_work awake rfl

/-- R76: with no age-out due, the end of the hold, and behind it the silence check when it has ended one. -/
theorem runWork_holdEnd (age : .ageOut v ∉ s.due) (due : .holdEnd v ∈ s.due) :
    runWork (.holdEnd v) s =
      if holdExpired s v = true then doWork (.silence v) (doWork (.holdEnd v) s) else doWork (.holdEnd v) s := by
  simp only [runWork]
  rw [doWork_not_due age, List.contains_iff_mem.mpr due, Bool.true_and]

theorem doWork_holdEnd (due : .holdEnd v ∈ s.due) :
    doWork (.holdEnd v) s = settle (if holdExpired s v = true then
      (taking (.holdEnd v) s).updSel v fun x => { x with hold := none } else taking (.holdEnd v) s) :=
  doWork_of_due due

/-- R76: the age-out that is still due is taken before the end of the hold. -/
theorem runWork_holdEnd_after_ageOut (once : .ageOut v ∉ s.due.erase (.ageOut v)) :
    runWork (.holdEnd v) (doWork (.ageOut v) s) = runWork (.holdEnd v) s := by
  simp only [runWork]
  rw [doWork_not_due (w := .ageOut v) (s := doWork (.ageOut v) s) (by rw [due_doWork]; exact once)]

end

/-- Settles O53, one piece of work after another. -/
theorem agesChecked : Obligations.AgesChecked := by
  intro s awake taken
  refine ⟨?_, ?_, ?_, ?_⟩
  · intro l due silent
    have runs : exec (.flushDelayExpiry l) s = .next (settle (checkFlush l (taken (.flush l)))) :=
      exec_of_alone (w := .flush l) awake rfl due nofun nofun
    rw [runs, checkFlush_eq]
    refine ⟨fun none => ?_, fun quiet word => ?_⟩
    · rw [if_neg]; rintro ⟨quiet, word⟩; exact none.elim (fun h => h quiet) word
    · rw [if_pos ⟨quiet, word⟩]
  · intro v due old
    have runs : exec (.onsetExpiry v) s = .next (settle (expireOnsets v (taken (.onsetExpiry v)))) :=
      exec_of_alone (w := .onsetExpiry v) awake rfl due nofun nofun
    rw [runs, expireOnsets_eq]
  · intro v due r old
    have runs : exec (.standbyAgeOut v) s = .next (settle (ageOut v (taken (.ageOut v)))) :=
      exec_of_alone (w := .ageOut v) awake rfl due nofun nofun
    rw [runs]
    refine ⟨fun on fs => ?_, fun off => ?_⟩
    · rw [ageOut_on (s := taken (.ageOut v)) on fs]; rfl
    · rw [ageOut_off (s := taken (.ageOut v)) off]
  · intro v due r ended free
    have endedIff : holdExpired s v = true ↔ ended := holdExpired_iff
    have freed (expired : ended) : doWork (.holdEnd v) s = free := by
      rw [doWork_holdEnd due, if_pos (endedIff.mpr expired)]; rfl
    refine ⟨fun age once => ⟨doWork (.ageOut v) s, runWork (.holdEnd v) s,
      exec_of_work (w := .ageOut v) awake rfl, exec_hold awake, ?_⟩,
      fun age going => ?_, fun age expired quiet => ?_, fun age once expired quiet => ?_⟩
    · have low : (doWork (.ageOut v) s).resetLow = false := (resetLow_doWork ..).trans awake
      rw [exec_hold low, runWork_holdEnd_after_ageOut once]
    · rw [exec_hold awake, runWork_holdEnd age due, if_neg (endedIff.not.mpr going), doWork_holdEnd due,
        if_neg (endedIff.not.mpr going)]
      rfl
    · have later : Work.silence v ∉ (doWork (.holdEnd v) s).due := by
        rw [due_doWork]; exact fun h => quiet (List.mem_of_mem_erase h)
      rw [exec_hold awake, runWork_holdEnd age due, if_pos (endedIff.mpr expired), doWork_not_due later, freed expired]
    · have left : free.due = s.due.erase (.holdEnd v) := by rw [← freed expired, due_doWork]
      have still : Work.silence v ∈ free.due := by rw [left]; exact (List.mem_erase_of_ne (by simp)).mpr quiet
      refine ⟨doWork (.silence v) free, ?_, ?_, doWork_of_due still⟩
      · rw [exec_hold awake, runWork_holdEnd age due, if_pos (endedIff.mpr expired), freed expired]
      · have low : free.resetLow = false := by rw [← freed expired, resetLow_doWork]; exact awake
        rw [exec_of_work (w := .silence v) low rfl, runWork_of_alone (w := .silence v) nofun fun u h => ?_]
        obtain rfl : v = u := by injection h
        rw [left]
        exact ⟨fun h => age (List.mem_of_mem_erase h), once⟩

/-! ### Triggers and timed cues (R92, R93, R95, R104) -/

section

variable {s t : State} {v : ServiceIx} {a : Frame}

theorem trigger_ignored (away : takesTrigger (s.service v) = false) :
    trigger v a s = s.updRunner v fun r => { r with ignored := bump r.ignored } := by
  rw [trigger, if_neg (by rw [away]; decide)]

theorem trigger_of_full (takes : takesTrigger (s.service v) = true) (full : 64 ≤ (s.service v).sched.queue.length) :
    trigger v a s = (s.updSched v fun q => { q with fullRefusals := bump q.fullRefusals }).updRunner v fun r =>
      { r with lost := bump r.lost } := by
  rw [trigger, if_pos takes, issueCue_of_full full, cueRefused_of_full full]

theorem trigger_issued (takes : takesTrigger (s.service v) = true) (issued : issueCue v a s = some t) :
    trigger v a s = t := by
  rw [trigger, if_pos takes, issued]

theorem timedStory_iff {r : Runner} : timedStory s r = true ↔
    ∃ k st, r.story = some k ∧ storeGet k s.stories = some st ∧ st.advance = .timed := by
  rw [timedStory]
  cases r.story with
  | none => simp
  | some k => cases h : storeGet k s.stories <;> simp [h]

/-- R95: a runner is at a timed check that may issue: RUNNING, with a TIMED story and its timing not held. -/
def Timing (s : State) (r : Runner) : Prop := r.phase = .running ∧ timedStory s r = true ∧ r.timingHeld = false

theorem checkTimed_off (off : (s.service v).runner.nextBase = none ∨ ¬ Timing s (s.service v).runner) :
    checkTimed v s = s := by
  simp only [checkTimed]
  split
  · rfl
  · next base h =>
    have not : ¬ Timing s (s.service v).runner := off.resolve_left (by rw [h]; simp)
    refine if_neg fun go => not ?_
    simp only [Bool.and_eq_true, decide_eq_true_iff, Bool.not_eq_true'] at go
    exact ⟨go.1.1.1, go.1.1.2, go.1.2⟩

theorem checkTimed_on {base : Frame} (at_ : (s.service v).runner.nextBase = some base)
    (on : Timing s (s.service v).runner) :
    checkTimed v s = if atOrBefore (dueFrame s v base) s.pfn = true then
        (match issueCue v (dueFrame s v base) s with
        | some t => t
        | none => (cueRefused v s).updRunner v fun x => { x with deferrals := bump x.deferrals })
      else s := by
  obtain ⟨running, timed, free⟩ := on
  simp only [checkTimed, at_]
  rw [running, timed, free]
  simp only [decide_true, Bool.true_and, Bool.not_false] <;> rfl

theorem dueFrame_eq (s : State) (v : ServiceIx) (base : Frame) :
    dueFrame s v base = base - BitVec.ofInt 32 (s.device.delay + (s.service v).record.sofs) := by
  rw [dueFrame, moved, BitVec.ofInt_neg, BitVec.sub_eq_add_neg]

end

/-- Settles O57: a trigger by the runner's state, and the timed check by its due frame. -/
theorem cuesFallDue : Obligations.CuesFallDue := by
  intro s v x refusing
  refine ⟨fun a => ?_, fun awake due => ?_⟩
  · intro takes
    have iff : takesTrigger x = true ↔ takes := takesTrigger_iff
    refine ⟨fun away => trigger_ignored (Bool.eq_false_iff.mpr (iff.not.mpr away)),
      fun on full => trigger_of_full (iff.mpr on) full, fun u on issued => trigger_issued (iff.mpr on) issued⟩
  · intro taken timed
    have runs : exec (.timedIssue v) s = .next (settle (checkTimed v taken)) :=
      exec_of_alone (w := .timed v) awake rfl due nofun nofun
    have iff : timedStory taken x.runner = true ↔ timed := timedStory_iff
    refine ⟨fun off => ?_, fun base running free at_ on => ?_⟩
    · rw [runs, checkTimed_off]
      rcases off with h | h | h | h
      · exact .inr fun on => h on.1
      · exact .inr fun on => by rw [show x.runner.timingHeld = false from on.2.2] at h; exact Bool.noConfusion h
      · exact .inl h
      · exact .inr fun on => h (iff.mp on.2.1)
    · intro dueAt
      have dueIs : dueFrame taken v base = dueAt := dueFrame_eq taken v base
      rw [runs, checkTimed_on (s := taken) at_ ⟨running, iff.mpr on, free⟩, dueIs]
      refine ⟨fun early => ?_, fun late full => ?_, fun u late issued => ?_⟩
      · rw [if_neg (by rw [show atOrBefore dueAt taken.pfn = false from early]; decide)]
      · rw [if_pos late, issueCue_of_full (s := taken) full, cueRefused_of_full (s := taken) full]; rfl
      · rw [if_pos late, issued]

end Sys2Proof.Machine
end

section
/-! The edges of the inputs and the silence check (O55, O56). -/

namespace Sys2Proof.Machine

/-! ### A sample (R63) -/

section

variable {x : Input} {level : Bool}

theorem sample_pending (pending : x.accepted = none) :
    sample level x = { x with accepted := some level, run := 0 } := by
  rw [sample, pending]

theorem sample_same (same : x.accepted = some level) : sample level x = { x with run := 0 } := by
  rw [sample, same]; exact if_pos rfl

theorem sample_changed (changed : x.accepted = some (!level)) : sample level x = { x with run := x.run + 1 } := by
  rw [sample, changed]; exact if_neg (by cases level <;> decide)

end

/-! ### An accepted edge and its delivery (R64, R65) -/

section

variable {s : State} {i : InputIx} {r : GpiRecord} {edge : Frame} {isAssert : Bool}

theorem acceptEdge_short (short : (s.input i).run ≤ (s.input i).record.nr ∨ (s.input i).accepted = none) :
    acceptEdge i s = s := by
  refine if_neg fun ready => ?_
  rw [edgeReady, Bool.and_eq_true, decide_eq_true_iff] at ready
  rcases short with h | h
  · exact absurd ready.1 (Nat.not_lt.mpr h)
  · rw [h] at ready; exact Bool.noConfusion ready.2

/-- R64: the input after its change of level. -/
def edgeAccepted (a isAssert : Bool) (y : Input) : Input :=
  { y with
    accepted := some (!a), run := 0
    asserts := if isAssert then bump y.asserts else y.asserts
    deasserts := if isAssert then y.deasserts else bump y.deasserts }

theorem acceptEdge_run {a : Bool} (accepted : (s.input i).accepted = some a)
    (run : (s.input i).record.nr < (s.input i).run) :
    acceptEdge i s = deliver (s.input i).record (decide ((!a) = (s.input i).record.activeHigh))
      (s.pfn - BitVec.ofNat 32 (s.input i).record.nr)
      (s.updInput i (edgeAccepted a (decide ((!a) = (s.input i).record.activeHigh)))) := by
  have ready : edgeReady (s.input i) = true := by
    rw [edgeReady, accepted, decide_eq_true run]; rfl
  have asserts : ((s.input i).accepted == some (!(s.input i).record.activeHigh)) =
      decide ((!a) = (s.input i).record.activeHigh) := by
    rw [accepted]; cases a <;> cases (s.input i).record.activeHigh <;> rfl
  have frame : moved s.pfn (-((s.input i).record.nr : Int)) = s.pfn - BitVec.ofNat 32 (s.input i).record.nr := by
    rw [moved, BitVec.ofInt_neg, BitVec.sub_eq_add_neg, BitVec.ofInt_natCast]
  simp only [acceptEdge, ready, if_true, asserts, frame]
  refine congrArg _ (updInput_congr ?_)
  rw [acceptChange, edgeAccepted, accepted]; rfl

theorem deliver_none (f : r.function = .none) : deliver r isAssert edge s = s := by
  rw [deliver, f]

theorem deliver_onset (f : r.function = .onset) :
    deliver r isAssert edge s = if isAssert = true ∧ (s.service r.target).record.enabled = true then
      s.updOnsets r.target (admitOnset edge) else s := by
  rw [deliver, f]
  cases isAssert <;> simp [offerOnset]

theorem deliver_disabled (f : r.function ≠ .onset) (off : (s.service r.target).record.enabled = false) :
    deliver r isAssert edge s = s := by
  rw [deliver]
  cases g : r.function with
  | onset => exact absurd g f
  | _ => simp [off]

theorem deliver_cue (f : r.function = .cue) (on : (s.service r.target).record.enabled = true) :
    deliver r isAssert edge s = if isAssert then trigger r.target edge s else s := by
  rw [deliver, f]; exact if_pos on

theorem deliver_mode (f : r.function = .mode) (on : (s.service r.target).record.enabled = true) :
    deliver r isAssert edge s = setMode r.target (if isAssert then .script else .live) s := by
  rw [deliver, f]; exact if_pos on

theorem deliver_mute (f : r.function = .mute) (on : (s.service r.target).record.enabled = true) :
    deliver r isAssert edge s = if isAssert then beginMute r.target s else endMute r.target s := by
  rw [deliver, f]; exact if_pos on

theorem deliver_clear (f : r.function = .clear) (on : (s.service r.target).record.enabled = true) :
    deliver r isAssert edge s = if isAssert then clearService r.target s else s := by
  rw [deliver, f]; exact if_pos on

/-- Only an active edge triggers a cue or clears a service. -/
theorem deliver_released (f : r.function = .cue ∨ r.function = .clear) : deliver r false edge s = s := by
  rw [deliver]
  rcases f with h | h <;> rw [h] <;> exact ite_self _

theorem beginMute_muted {v : ServiceIx} (muted : (s.service v).sel.muted = true) : beginMute v s = s := by
  rw [beginMute, if_pos muted]

theorem beginMute_clear {v : ServiceIx} (clear : (s.service v).sel.muted = false) :
    beginMute v s = s.updService v fun y =>
      { y with
        sel := { y.sel with muted := true }
        cb := { y.cb with form := .none, fill := 0, newRow := false, lastRelease := none, timer := .idle }
        om := { y.om with fifo := [{ kind := .clear, notBefore := none, story := none }] } } := by
  rw [beginMute, if_neg (by rw [clear]; decide), State.updSel, State.updCb, State.updOm, updService_updService,
    updService_updService]
  rfl

theorem clearService_eq {v : ServiceIx} : clearService v s = s.updService v fun y =>
    { y with
      cb := { y.cb with form := .none, fill := 0, newRow := false, lastRelease := none,
                        cue := none, blocks := [], shown := none, timer := .idle }
      om := { y.om with fifo := [{ kind := .clear, notBefore := none, story := none }] } } := by
  rw [clearService, State.updCb, State.updOm, updService_updService]; rfl

end

/-- Settles O55: the three cases of a sample, and the edge by the input's function. -/
theorem edgesDelivered : Obligations.EdgesDelivered := by
  refine ⟨fun x level => ⟨sample_pending, sample_same, sample_changed⟩, ?_⟩
  intro s i awake due x r v taken edge
  have runs : exec (.gpiEdgeAccepted i) s = .next (settle (acceptEdge i taken)) :=
    exec_of_alone (w := .edge i) awake rfl due nofun nofun
  refine ⟨fun short => ?_, ?_⟩
  · rw [runs, acceptEdge_short (s := taken) short]
  · intro a accepted run toActive base acts
    have delivered : acceptEdge i taken = deliver r toActive edge base := acceptEdge_run (s := taken) accepted run
    rw [delivered] at runs
    simp only [acts, id]
    rw [runs]
    refine ⟨?_, ?_, ?_, ?_, ?_, fun on => ⟨?_, ?_, ?_, ?_, ?_, ?_, ?_⟩⟩
    · intro f; rw [deliver_none f]
    · intro f up on; rw [deliver_onset f, if_pos ⟨up, on⟩]
    · intro f off
      have not : ¬ (toActive = true ∧ (base.service r.target).record.enabled = true) := by
        rintro ⟨up, on⟩
        rcases off with h | h
        · rw [h] at up; exact Bool.noConfusion up
        · exact absurd (h.symm.trans on) Bool.false_ne_true
      rw [deliver_onset f, if_neg not]
    · intro f off; rw [deliver_disabled (s := base) f off]
    · intro f down; rw [down, deliver_released f]
    · intro f up; rw [deliver_cue (s := base) f on, if_pos up]
    · intro f up; rw [deliver_mode (s := base) f on, if_pos up]
    · intro f down; rw [deliver_mode (s := base) f on, if_neg (by rw [down]; decide)]
    · intro f up muted; rw [deliver_mute (s := base) f on, if_pos up, beginMute_muted (s := base) muted]
    · intro f up clear; rw [deliver_mute (s := base) f on, if_pos up, beginMute_clear (s := base) clear]
    · intro f down; rw [deliver_mute (s := base) f on, if_neg (by rw [down]; decide), endMute]
    · intro f up; rw [deliver_clear (s := base) f on, if_pos up, clearService_eq]

/-! ### The silence check (R76, R77, R78, R82) -/

section

variable {s : State} {v : ServiceIx} {l m : LineIx}

/-- R76, R82: the silence check of the service runs. -/
def SilenceRuns (x : Service) : Prop :=
  x.record.enabled = true ∧ x.sel.mode = .live ∧ x.record.fs ≠ 0 ∧ x.sel.hold = none ∧ x.sel.awaitsFrame = false

theorem silenceRuns_iff {x : Service} : silenceRuns x = true ↔ SilenceRuns x := by
  simp only [silenceRuns, SilenceRuns, Bool.and_eq_true, decide_eq_true_iff, Option.isNone_iff_eq_none,
    Bool.not_eq_true', and_assoc]

theorem checkSilence_off (off : ¬ SilenceRuns (s.service v) ∨ attachedLine (s.service v) = none) :
    checkSilence v s = s := by
  simp only [checkSilence]
  split
  · next runs => rw [off.resolve_left (fun h => h (silenceRuns_iff.mp runs))]
  · rfl

theorem checkSilence_heard (runs : SilenceRuns (s.service v)) (on : attachedLine (s.service v) = some l)
    (heard : silenceOf s l < ((s.service v).record.fs : Int)) :
    checkSilence v s = s.updSel v fun y => { y with silentNotified := false } := by
  simp only [checkSilence, silenceRuns_iff.mpr runs, if_true, on]
  rw [if_pos heard]

theorem checkSilence_over (runs : SilenceRuns (s.service v)) (on : attachedLine (s.service v) = some l)
    (silent : ¬ silenceOf s l < ((s.service v).record.fs : Int)) (other : otherActive s v = some m) :
    checkSilence v s = failover v l m s := by
  simp only [checkSilence, silenceRuns_iff.mpr runs, if_true, on]
  rw [if_neg silent, other]

theorem checkSilence_alone (runs : SilenceRuns (s.service v)) (on : attachedLine (s.service v) = some l)
    (silent : ¬ silenceOf s l < ((s.service v).record.fs : Int)) (alone : otherActive s v = none) :
    checkSilence v s = if (s.service v).sel.silentNotified = true then s else
      raise (.sourceSilent v l (s.pfn - (s.line l).stamp)) (s.updSel v fun y => { y with silentNotified := true }) := by
  simp only [checkSilence, silenceRuns_iff.mpr runs, if_true, on]
  rw [if_neg silent, alone]

theorem otherLine_eq (x : Service) :
    otherLine x = if x.sel.choice = .primary then x.record.backup else x.record.primary := by
  rw [otherLine]; cases x.sel.choice <;> rfl

theorem otherActive_iff : otherActive s v = some m ↔ otherLine (s.service v) = some m ∧
    (s.line m).record.enabled = true ∧ silenceOf s m < ((s.service v).record.fs : Int) := by
  rw [otherActive]
  cases otherLine (s.service v) with
  | none => simp
  | some k =>
    dsimp only
    by_cases active : ((s.line k).record.enabled && decide (silenceOf s k < ((s.service v).record.fs : Int))) = true
    · rw [if_pos active]
      rw [Bool.and_eq_true, decide_eq_true_iff] at active
      exact ⟨fun h => by obtain rfl : k = m := by injection h
                         exact ⟨rfl, active⟩, fun h => h.1⟩
    · rw [if_neg active]
      rw [Bool.and_eq_true, decide_eq_true_iff] at active
      refine ⟨fun h => by injection h, fun h => absurd ?_ active⟩
      obtain rfl : k = m := by injection h.1
      exact h.2

theorem otherActive_eq_none (none : ¬ ∃ m, otherLine (s.service v) = some m ∧ (s.line m).record.enabled = true ∧
    silenceOf s m < ((s.service v).record.fs : Int)) : otherActive s v = .none := by
  cases other : otherActive s v with
  | none => rfl
  | some m => exact absurd ⟨m, otherActive_iff.mp other⟩ none

/-- R77: the word under assembly is completed before the switch, which it does not disturb. -/
theorem failover_eq : failover v l m s =
    let turned := (flushWord l s).updSel v fun y =>
      { y with choice := if (s.service v).sel.choice = .primary then .backup else .primary, hold := none }
    let merged := mergeStandby v turned
    raise (.failover v l m s.pfn merged.2 ((s.service v).sel.standby.length - merged.2))
      (merged.1.updSel v fun y => { y with failovers := bump y.failovers, silentNotified := false }) := by
  have kept : ((flushWord l s).service v).sel.choice = (s.service v).sel.choice :=
    congrArg Prod.snd (Selects.flushWord (m := selected (s.service v).sel) l rfl)
  have turned : ((flushWord l s).updSel v fun x => { x with choice := swapped x.choice, hold := none }) =
      (flushWord l s).updSel v fun y =>
        { y with choice := if (s.service v).sel.choice = .primary then .backup else .primary, hold := none } := by
    refine updService_congr ?_
    dsimp only
    rw [kept]
    cases (s.service v).sel.choice <;> rfl
  rw [failover, turned]

end

/-- R76: the age-out and the end of the hold that are still due, taken before the silence check. -/
theorem runWork_silence_after {s : State} {v : ServiceIx} (age : .ageOut v ∉ s.due.erase (.ageOut v))
    (hold : .holdEnd v ∉ s.due.erase (.holdEnd v)) :
    runWork (.silence v) (doWork (.holdEnd v) (doWork (.ageOut v) s)) = runWork (.silence v) s := by
  have left : (doWork (.holdEnd v) (doWork (.ageOut v) s)).due = (s.due.erase (.ageOut v)).erase (.holdEnd v) := by
    rw [due_doWork, due_doWork]
  have noAge : Work.ageOut v ∉ (doWork (.holdEnd v) (doWork (.ageOut v) s)).due := by
    rw [left]; exact fun h => age (List.mem_of_mem_erase h)
  have noHold : Work.holdEnd v ∉ (doWork (.holdEnd v) (doWork (.ageOut v) s)).due := by
    rw [left, List.erase_comm]; exact fun h => hold (List.mem_of_mem_erase h)
  simp only [runWork]
  rw [doWork_not_due noAge, doWork_not_due noHold]

/-- Settles O56: the earlier steps of R76, and the four ends of the check. -/
theorem silenceChecked : Obligations.SilenceChecked := by
  refine ⟨?_, ?_⟩
  · intro s v awake step earlier
    have steps (w : Work) (u : State) : step w u = doWork w u := by
      rw [doWork]; simp only [List.contains_iff_mem]; rfl
    have earlierIs : earlier = doWork (.holdEnd v) (doWork (.ageOut v) s) := by
      show step _ (step _ s) = _
      rw [steps, steps]
    have low : earlier.resetLow = false := by rw [earlierIs, resetLow_doWork, resetLow_doWork]; exact awake
    rw [exec_of_work (w := .silence v) awake rfl, exec_of_work (w := .silence v) low rfl, steps, earlierIs]
    refine ⟨rfl, ?_, fun age hold => ?_⟩
    · rw [due_doWork, due_doWork]
    · rw [runWork_silence_after age hold]
  · intro s v awake due age hold x r taken silence done
    have checks {u : State} (h : checkSilence v taken = u) : done u := by
      have runs : exec (.silenceLimitReached v) s = .next (settle (checkSilence v taken)) :=
        exec_of_alone (w := .silence v) awake rfl due nofun fun u h => by
          obtain rfl : v = u := by injection h
          exact ⟨age, hold⟩
      rw [h] at runs; exact runs
    refine ⟨fun off => checks (checkSilence_off (s := taken) ?_), ?_⟩
    · by_cases gone : attachedLine x = none
      · exact .inr gone
      · refine .inl fun ⟨on, live, fs, free, ran⟩ => ?_
        rcases off with h | h | h | h | h | h
        · exact absurd (h.symm.trans on) Bool.false_ne_true
        · exact Mode.noConfusion (h.symm.trans live)
        · exact fs h
        · exact h free
        · exact absurd (ran.symm.trans h) Bool.false_ne_true
        · exact gone h
    · intro l on live fs free ran attached other active
      have runs : SilenceRuns (taken.service v) := ⟨on, live, fs, free, ran⟩
      have otherIs : otherLine (taken.service v) = other := otherLine_eq x
      have alone (none : ¬ active) : otherActive taken v = .none :=
        otherActive_eq_none fun ⟨m, named, enabled, near⟩ => none ⟨m, otherIs.symm.trans named, enabled, near⟩
      refine ⟨fun heard => checks (checkSilence_heard runs attached heard),
        fun m silent named ⟨n, named', enabled, near⟩ => ?_, fun silent none first => checks ?_,
        fun silent none again => checks ?_⟩
      · obtain rfl : n = m := Option.some.inj (named'.symm.trans named)
        intro turned merged count
        refine checks ?_
        rw [checkSilence_over runs attached (Int.not_lt.mpr silent)
          (otherActive_iff.mpr ⟨otherIs.trans named, enabled, near⟩)]
        exact failover_eq
      · rw [checkSilence_alone runs attached (Int.not_lt.mpr silent) (alone none)]
        exact if_neg (by rw [show (taken.service v).sel.silentNotified = false from first]; decide)
      · rw [checkSilence_alone runs attached (Int.not_lt.mpr silent) (alone none)]
        exact if_pos again

end Sys2Proof.Machine
end

section
/-! The roll-up release (O58). -/

namespace Sys2Proof.Machine

section

variable {s : State} {v : ServiceIx} {e : Entry}

/-! ### What leaves the queue of a service by release (R113, R117) -/

/-- R117: the scheduler after the release of its head e. -/
def releasedHead (pfn : Frame) (e : Entry) (q : Scheduler) : Scheduler :=
  { q with queue := q.queue.tail, lastLeft := some e.target, releases := bump q.releases
           maxLag := maxFigure q.maxLag (figure (frameDiff e.target pfn)) }

theorem line_leaveByRelease (l : LineIx) : (leaveByRelease v e s).line l =
    if (s.line l).asm.held.map Held.on = some v then
      { s.line l with asm := { (s.line l).asm with retryOwed := true } }
    else s.line l := by
  show (s.lines.map (oweRetry v)).get l = _
  rw [Quad.get_map]
  exact oweRetry_eq v (s.line l)

theorem service_leaveByRelease (u : ServiceIx) : (leaveByRelease v e s).service u =
    if u = v then { s.service v with sched := releasedHead s.pfn e (s.service v).sched } else s.service u := by
  have each : (leaveByRelease v e s).service u =
      (((s.updSched v fun q => { q with queue := q.queue.tail }).updSched v fun q =>
        { q with lastLeft := some e.target }).updSched v (recordRelease s.pfn e.target)).service u := rfl
  rw [each, State.updSched, State.updSched, State.updSched, updService_updService, updService_updService,
    service_updService]
  rfl

/-- R113, R117: the head e has left the queue of v by release, and nothing but the builder, the FIFO and the
selection of v has changed beside that. -/
structure LeftByRelease (v : ServiceIx) (e : Entry) (s u : State) : Prop where
  sched : (u.service v).sched = releasedHead s.pfn e (s.service v).sched
  others : ∀ w, w ≠ v → u.service w = s.service w
  settings : u.settings = s.settings
  ci : u.ci = s.ci
  lines : ∀ l, u.line l = if (s.line l).asm.held.map Held.on = some v then
    { s.line l with asm := { (s.line l).asm with retryOwed := true } } else s.line l

theorem leftByRelease_updService {f : Service → Service}
    (record : ∀ x, (f x).record = x.record) (sched : ∀ x, (f x).sched = x.sched) :
    LeftByRelease v e s ((leaveByRelease v e s).updService v f) where
  sched := by rw [service_updService, if_pos rfl, sched, service_leaveByRelease, if_pos rfl]
  others w other := by rw [service_updService, if_neg other, service_leaveByRelease, if_neg other]
  settings := by rw [settings_updService (record _), settings_leaveByRelease]
  ci := rfl
  lines := line_leaveByRelease

theorem service_afterRelease (f : Service → Service) :
    ((leaveByRelease v e s).updService v f).service v =
      f { s.service v with sched := releasedHead s.pfn e (s.service v).sched } := by
  rw [service_updService, if_pos rfl, service_leaveByRelease, if_pos rfl]

/-! ### The head of the queue (R113) -/

/-- R113: an entry takes the roll-up path. -/
def RollUpHead (x : Service) (e : Entry) : Prop := x.record.display = .rollUp ∧ ∀ k i t a, e.body ≠ .cue k i t a

theorem rollUpHead_iff {x : Service} : RollUpHead x e ↔ popOnPath x.record.display e.body = false := by
  rw [RollUpHead, popOnPath.eq_def]
  cases x.record.display <;> cases e.body <;> simp

theorem headDue_empty (empty : (s.service v).sched.queue = []) : headDue s v = none := by
  rw [headDue, empty]

theorem headDue_of_due {rest : List Entry} (queue : (s.service v).sched.queue = e :: rest)
    (path : RollUpHead (s.service v) e) (due : atOrBefore e.target s.pfn = true) : headDue s v = some e := by
  rw [headDue, queue]
  dsimp only
  rw [rollUpHead_iff.mp path, due]; rfl

theorem headDue_of_not {rest : List Entry} (queue : (s.service v).sched.queue = e :: rest)
    (not : ¬ RollUpHead (s.service v) e ∨ atOrBefore e.target s.pfn = false) : headDue s v = none := by
  rw [headDue, queue]
  refine if_neg fun both => ?_
  rw [Bool.and_eq_true, Bool.not_eq_true'] at both
  rcases not with h | h
  · exact h (rollUpHead_iff.mpr both.1)
  · exact absurd (h.symm.trans both.2) Bool.false_ne_true

/-! ### The units of a word -/

theorem one_le_unitsCost {us : List OutUnit} (some : us ≠ []) : 1 ≤ unitsCost us := by
  obtain ⟨u, rest, rfl⟩ := List.exists_cons_of_ne_nil some
  have one : 1 ≤ unitCost u := by rw [unitCost]; split <;> omega
  rw [unitsCost_cons]; omega

theorem compose_kinds_ne_nil (width : Nat) (w : WordRecord) (b : Builder) : (compose width w b).kinds ≠ [] := by
  by_cases fresh : StartsFresh width w b
  · rw [compose_fresh fresh]
    split
    · simp
    · next long =>
      obtain ⟨x, xs, text⟩ := List.exists_cons_of_length_pos (Nat.lt_of_le_of_lt (Nat.zero_le _) (not_le.mp long))
      refine List.append_ne_nil_of_right_ne_nil _ ?_
      rw [text, List.length_cons, chunk, joinRows.eq_def]
      split <;> simp_all
  · rw [(compose_stays fresh).2]; simp

theorem fits_iff {us : List OutUnit} {om : Carriage} (some : us ≠ []) :
    unitsCost us ≤ freeRoom om ↔ bytesHeld om + unitsCost us ≤ 256 := by
  have one := one_le_unitsCost some
  rw [freeRoom, Config.fifoCapacity]; omega

/-! ### One release (R114, R115, R118) -/

/-- R118: a service after a discard of its head under mute. -/
def discarded (x : Service) : Service :=
  { x with sel := { x.sel with muteDiscards := bump x.sel.muteDiscards } }

/-- R114: a service whose output FIFO has taken the units of the word c, released at the frame f. -/
def wordReleased (f : Frame) (c : Composed) (x : Service) : Service :=
  { x with om := { x.om with fifo := x.om.fifo ++ plainUnits c.kinds }, cb := afterCompose f c x.cb }

/-- R115: a service whose output FIFO has taken a CLEAR unit. -/
def clearReleased (x : Service) : Service :=
  { x with om := { x.om with fifo := x.om.fifo ++ [clearUnit] }, cb := afterClearEntry x.cb }

theorem releaseHead_muted (muted : (s.service v).sel.muted = true) :
    releaseHead v e s = some ((leaveByRelease v e s).updService v discarded) := by
  simp only [releaseHead, muted, if_true]
  rfl

theorem releaseHead_word {w : WordRecord} (heard : (s.service v).sel.muted = false) (body : e.body = .word w) :
    releaseHead v e s =
      let c := compose (s.service v).record.width w (s.service v).cb
      if bytesHeld (s.service v).om + unitsCost (plainUnits c.kinds) ≤ 256 then
        some ((leaveByRelease v e s).updService v (wordReleased s.pfn c)) else none := by
  have units : plainUnits (compose (s.service v).record.width w (s.service v).cb).kinds ≠ [] :=
    fun h => compose_kinds_ne_nil _ _ _ (List.map_eq_nil_iff.mp h)
  simp only [releaseHead, heard, Bool.false_eq_true, if_false, body, fits_iff units, appendUnits, State.updOm,
    State.updCb, updService_updService]
  rfl

theorem releaseHead_clear {l : LineIx} {a : Frame} (heard : (s.service v).sel.muted = false)
    (body : e.body = .clear l a) :
    releaseHead v e s = if bytesHeld (s.service v).om < 256 then
        some ((leaveByRelease v e s).updService v clearReleased) else none := by
  have room : 1 ≤ freeRoom (s.service v).om ↔ bytesHeld (s.service v).om < 256 := by
    rw [freeRoom, Config.fifoCapacity]; omega
  simp only [releaseHead, heard, Bool.false_eq_true, if_false, body, room, appendUnits, State.updOm,
    State.updCb, updService_updService]
  rfl

theorem serveUpTo_released {n : Nat} {u : State} (due : headDue s v = some e) (released : releaseHead v e s = some u) :
    serveUpTo v (n + 1) s = serveUpTo v n (settle u) := by
  rw [serveUpTo, due]
  dsimp only
  rw [released]

theorem serveUpTo_stalled {n : Nat} (due : headDue s v = some e) (stays : releaseHead v e s = none) :
    serveUpTo v (n + 1) s = s.updSched v fun q => { q with stalls := bump q.stalls } := by
  rw [serveUpTo, due]
  dsimp only
  rw [stays]

theorem serveUpTo_none_due {n : Nat} (none : headDue s v = none) : serveUpTo v (n + 1) s = s := by
  rw [serveUpTo, none]

end

/-- Settles O58, by the head of the queue. -/
theorem rollUpServed : Obligations.RollUpServed := by
  refine ⟨?_, ?_⟩
  · intro s v awake due taken
    have runs : exec (.rollUpRelease v) s = .next (settle (serveQueue v taken)) :=
      exec_of_alone (w := .serve v) awake rfl due nofun nofun
    rw [runs, serveQueue]; rfl
  · intro s v n x done
    refine ⟨rfl, fun empty => serveUpTo_none_due (headDue_empty empty), fun e rest queue => ?_⟩
    intro rollUp lag left goesOn
    have tail : (s.service v).sched.queue.tail = rest := by rw [show (s.service v).sched.queue = _ from queue]; rfl
    have leaves {f : Service → Service} (record : ∀ x, (f x).record = x.record) (sched : ∀ x, (f x).sched = x.sched) :
        left ((leaveByRelease v e s).updService v f) := by
      obtain ⟨hsched, others, settings, ci, lines⟩ :=
        leftByRelease_updService (v := v) (e := e) (s := s) (f := f) record sched
      rw [releasedHead, tail] at hsched
      exact ⟨hsched, others, settings, ci, lines⟩
    have goes {f : Service → Service} (path : rollUp) (due : atOrBefore e.target s.pfn = true)
        (released : releaseHead v e s = some ((leaveByRelease v e s).updService v f)) :
        goesOn ((leaveByRelease v e s).updService v f) :=
      serveUpTo_released (headDue_of_due queue path due) released
    have stays (path : rollUp) (due : atOrBefore e.target s.pfn = true) (none : releaseHead v e s = none) :
        done = s.updSched v fun q => { q with stalls := bump q.stalls } :=
      serveUpTo_stalled (headDue_of_due queue path due) none
    refine ⟨fun not => serveUpTo_none_due (headDue_of_not queue not), fun path due muted => ?_,
      fun w path due heard body => ?_, fun l a path due heard body => ?_⟩
    · refine ⟨_, goes path due (releaseHead_muted muted), leaves (fun _ => rfl) (fun _ => rfl), ?_⟩
      rw [service_afterRelease]
      exact ⟨rfl, rfl, rfl⟩
    · intro c units fits
      have released := releaseHead_word (s := s) heard body
      refine ⟨fun full => stays path due ?_, fun room =>
        ⟨_, goes path due ?_, leaves (f := wordReleased s.pfn c) (fun _ => rfl) (fun _ => rfl), ?_⟩⟩
      · rw [released]; exact if_neg full
      · rw [released]; exact if_pos room
      · rw [service_afterRelease]
        exact ⟨rfl, rfl, rfl⟩
    · have released := releaseHead_clear (s := s) heard body
      refine ⟨fun full => stays path due ?_, fun room =>
        ⟨_, goes path due ?_, leaves (f := clearReleased) (fun _ => rfl) (fun _ => rfl), ?_⟩⟩
      · rw [released]; exact if_neg (Nat.not_lt.mpr full)
      · rw [released]; exact if_pos room
      · rw [service_afterRelease]
        exact ⟨rfl, rfl, rfl⟩

end Sys2Proof.Machine
end

section
/-! The checks of the caption builders at a frame start (O60). -/

namespace Sys2Proof.Machine

/-! ### The units of a block and their cost (R134) -/

section

/-- Rows with a separator between each two: each row behind its separator, but for the first. -/
theorem joinRows_eq (sep : UnitKind) (rows : List Row) :
    joinRows sep rows = (rows.flatMap fun r => [sep, .glyphs r]).tail := by
  induction rows with
  | nil => rfl
  | cons r rs ih =>
    cases rs with
    | nil => rfl
    | cons q qs =>
      rw [joinRows]
      · rw [ih]; rfl
      · simp

theorem blockUnits_text (form : Form) (y : TextBlock) :
    blockUnits form (.text y) =
      (if form = .block then [] else [{ kind := .clear, notBefore := some y.showFrame, story := y.story }]) ++
        (y.rows.flatMap fun r => [({ kind := .newRow, notBefore := none, story := y.story } : OutUnit),
          { kind := .glyphs r, notBefore := none, story := y.story }]).tail ++
        [{ kind := .showBlock, notBefore := some y.showFrame, story := y.story }] ++
        y.trailing.elim [] fun f => [{ kind := .clear, notBefore := some f, story := y.story }] := by
  have rows : (plainUnits (joinRows .newRow y.rows)).map (fun u => { u with story := y.story }) =
      (y.rows.flatMap fun r => [({ kind := .newRow, notBefore := none, story := y.story } : OutUnit),
          { kind := .glyphs r, notBefore := none, story := y.story }]).tail := by
    rw [joinRows_eq, plainUnits, List.map_tail, List.map_tail, List.map_flatMap, List.map_flatMap]; rfl
  rw [blockUnits, textUnits, rows]
  cases y.trailing <;> rfl

theorem blockUnits_ne_nil (form : Form) (k : Block) : blockUnits form k ≠ [] := by
  cases k with
  | text y => rw [blockUnits_text]; simp
  | clearOnly => simp [blockUnits]

/-- Every row costs its glyphs, the header of its unit and one separator. -/
theorem unitsCost_rows (story : Option Nat) (rows : List Row) :
    unitsCost (rows.flatMap fun r => [({ kind := .newRow, notBefore := none, story := story } : OutUnit),
      { kind := .glyphs r, notBefore := none, story := story }]) =
      3 * rows.length + (rows.map List.length).sum := by
  induction rows with
  | nil => rfl
  | cons r rs ih =>
    rw [List.flatMap_cons, unitsCost_append, ih, List.length_cons, List.map_cons, List.sum_cons]
    simp only [unitsCost_cons, unitsCost_nil, unitCost]
    omega

theorem unitsCost_text (form : Form) (y : TextBlock) (some : y.rows ≠ []) :
    unitsCost (blockUnits form (.text y)) =
      3 * y.rows.length + (y.rows.map List.length).sum + (if form = .block then 0 else 1) +
        (if y.trailing = none then 0 else 1) := by
  have rows := unitsCost_rows y.story y.rows
  obtain ⟨r, rs, isRows⟩ := List.exists_cons_of_ne_nil some
  have lead : unitsCost (if form = .block then [] else
      [({ kind := .clear, notBefore := .some y.showFrame, story := y.story } : OutUnit)]) =
      if form = .block then 0 else 1 := by split <;> rfl
  have trail : unitsCost (y.trailing.elim [] fun f =>
      [({ kind := .clear, notBefore := .some f, story := y.story } : OutUnit)]) =
      if y.trailing = none then 0 else 1 := by cases y.trailing <;> rfl
  have show_ : unitsCost [({ kind := .showBlock, notBefore := .some y.showFrame, story := y.story } : OutUnit)] = 1 := rfl
  rw [blockUnits_text, unitsCost_append, unitsCost_append, unitsCost_append, lead, trail, show_]
  rw [isRows, List.flatMap_cons, List.cons_append, unitsCost_cons, ← isRows] at rows
  rw [isRows, List.flatMap_cons, List.cons_append, List.tail_cons, ← isRows]
  rw [show unitCost { kind := .newRow, notBefore := none, story := y.story } = 1 from rfl] at rows
  omega

end

section

variable {s : State} {v : ServiceIx}

theorem freeRoom_pos_iff {om : Carriage} : 1 ≤ freeRoom om ↔ bytesHeld om < 256 := by
  rw [freeRoom, Config.fifoCapacity]; omega

/-! ### The closing of the open block (R127, R128, R138) -/

theorem closeOpen_empty {c : CloseCause} (empty : (s.service v).cb.openBlock.words = []) : closeOpen v c s = s := by
  rw [closeOpen, empty]; rfl

/-- R127: the builder after the open block has closed at the cause c into the block b. -/
def blockClosed (b : Block) (c : CloseCause) (x : Builder) : Builder :=
  { x with
    openBlock := { words := [], rows := [], closing := none, carry := none, expiring := false }
    blocks := x.blocks ++ [b], blocksClosed := bump x.blocksClosed
    holdExpiries := if c = .holdExpiry then bump x.holdExpiries else x.holdExpiries }

theorem closeNow_eq {c : CloseCause} {trailing : Option Frame} {p : Placed} {ps : List Placed}
    (words : (s.service v).cb.openBlock.words = p :: ps) :
    closeNow v c trailing s = attemptAppend v (s.updCb v
      (blockClosed (.text (closedText s v (s.service v).cb.openBlock.rows p.target none trailing)) c)) := by
  have first : tFirst (s.service v).cb.openBlock = some p.target := by rw [tFirst, words]; rfl
  rw [closeNow, first]
  dsimp only
  rw [joinBlock, State.updCb, State.updCb, updService_updService]
  rfl

theorem closeOpen_room {c : CloseCause} {p : Placed} {ps : List Placed}
    (words : (s.service v).cb.openBlock.words = p :: ps) (room : (s.service v).cb.blocks.length < 4) :
    closeOpen v c s = closeNow v ((s.service v).cb.openBlock.closing.getD c) none s := by
  have has : blockRoom (s.service v).cb = true := decide_eq_true room
  simp only [closeOpen, words, has, if_true, List.isEmpty_cons, Bool.false_eq_true, if_false]

theorem closeOpen_full {c : CloseCause} {p : Placed} {ps : List Placed}
    (words : (s.service v).cb.openBlock.words = p :: ps) (full : 4 ≤ (s.service v).cb.blocks.length) :
    closeOpen v c s = updOpen v (fun o => { o with closing := some (o.closing.getD c) }) s := by
  have no : blockRoom (s.service v).cb = false := decide_eq_false (Nat.not_lt.mpr full)
  simp only [closeOpen, words, no, List.isEmpty_cons, Bool.false_eq_true, if_false]
  exact updService_congr rfl

/-- A closed block rests on the record of its service, on the device and on the blocks before it. -/
theorem closedText_congr {t : State} {rows : List Row} {f : Frame} {story : Option Nat} {trailing : Option Frame}
    (pfn : t.pfn = s.pfn) (device : t.device = s.device) (record : (t.service v).record = (s.service v).record)
    (blocks : (t.service v).cb.blocks = (s.service v).cb.blocks) (shown : (t.service v).cb.shown = (s.service v).cb.shown) :
    closedText t v rows f story trailing = closedText s v rows f story trailing := by
  rw [closedText, closedText, duration, duration, showFloor, showFloor, pfn, device, record, blocks, shown]

/-! ### The hold expiry (R138) -/

theorem holdPassed_empty (empty : (s.service v).cb.openBlock.words = []) : holdPassed s v = false := by
  rw [holdPassed, tFirst, empty]; rfl

theorem holdPassed_iff {p : Placed} {ps : List Placed} (words : (s.service v).cb.openBlock.words = p :: ps) :
    holdPassed s v = true ↔ (s.service v).cb.openBlock.expiring = true ∨
      atOrBefore (p.target + BitVec.ofNat 32 (s.service v).record.holdLimit) s.pfn = true := by
  have limit : moved p.target (s.service v).record.holdLimit =
      p.target + BitVec.ofNat 32 (s.service v).record.holdLimit := by rw [moved, BitVec.ofInt_natCast]
  have first : tFirst (s.service v).cb.openBlock = some p.target := by rw [tFirst, words]; rfl
  rw [holdPassed, first]
  dsimp only
  rw [Bool.or_eq_true, limit]

/-- R138: the hold expiry has been looked for. -/
def holdChecked (v : ServiceIx) (s : State) : State := updOpen v (fun o => { o with expiring := false }) s

theorem cb_holdChecked : ((holdChecked v s).service v).cb =
    { (s.service v).cb with openBlock := { (s.service v).cb.openBlock with expiring := false } } := by
  rw [holdChecked, updOpen, service_updCb_same]

theorem checkHold_stays (stays : holdPassed s v = false ∨ (s.service v).cb.openBlock.closing ≠ none) :
    checkHold v s = holdChecked v s := by
  refine if_neg ?_
  rw [Bool.and_eq_true, Option.isNone_iff_eq_none]
  rintro ⟨none, passed⟩
  rcases stays with h | h
  · exact absurd (h.symm.trans passed) Bool.false_ne_true
  · exact h none

theorem checkHold_closes (passed : holdPassed s v = true) (none : (s.service v).cb.openBlock.closing = none) :
    checkHold v s = closeOpen v .holdExpiry (holdChecked v s) := by
  refine if_pos ?_
  rw [Bool.and_eq_true, Option.isNone_iff_eq_none]
  exact ⟨none, passed⟩

theorem checkHold_room {p : Placed} {ps : List Placed} (words : (s.service v).cb.openBlock.words = p :: ps)
    (passed : holdPassed s v = true) (none : (s.service v).cb.openBlock.closing = none)
    (room : (s.service v).cb.blocks.length < 4) :
    checkHold v s = attemptAppend v ((holdChecked v s).updCb v (blockClosed
      (.text (closedText s v (s.service v).cb.openBlock.rows p.target .none .none)) .holdExpiry)) := by
  have cb := cb_holdChecked (s := s) (v := v)
  have words' : ((holdChecked v s).service v).cb.openBlock.words = p :: ps := by rw [cb]; exact words
  have record : ((holdChecked v s).service v).record = (s.service v).record := by
    rw [holdChecked, updOpen, service_updCb_same]
  rw [checkHold_closes passed none, closeOpen_room words' (by rw [cb]; exact room), closeNow_eq words', cb, none,
    closedText_congr (s := s) (t := holdChecked v s) rfl rfl record (by rw [cb]) (by rw [cb])]
  rfl

theorem checkHold_full {p : Placed} {ps : List Placed} (words : (s.service v).cb.openBlock.words = p :: ps)
    (passed : holdPassed s v = true) (none : (s.service v).cb.openBlock.closing = none)
    (full : 4 ≤ (s.service v).cb.blocks.length) :
    checkHold v s = updOpen v (fun o => { o with closing := some .holdExpiry }) (holdChecked v s) := by
  have cb := cb_holdChecked (s := s) (v := v)
  have words' : ((holdChecked v s).service v).cb.openBlock.words = p :: ps := by rw [cb]; exact words
  rw [checkHold_closes passed none, closeOpen_full words' (by rw [cb]; exact full), updOpen, updOpen]
  refine updService_congr ?_
  dsimp only
  rw [cb, none]
  rfl

/-! ### The append of the head block (R134) -/

theorem appendHead_empty (empty : (s.service v).cb.blocks = []) : appendHead v s = none := by
  rw [appendHead, empty]

theorem appendHead_muted {k : Block} {ks : List Block} (blocks : (s.service v).cb.blocks = k :: ks)
    (muted : (s.service v).sel.muted = true) :
    appendHead v s = some (s.updService v fun y =>
      { y with cb := { y.cb with blocks := ks }
               sel := { y.sel with muteDiscards := bump y.sel.muteDiscards } }) := by
  rw [appendHead, blocks]
  dsimp only
  rw [if_pos muted, State.updCb, State.updSel, updService_updService]
  refine congrArg some (updService_congr ?_)
  dsimp only
  rw [blocks]
  rfl

theorem appendHead_heard {k : Block} {ks : List Block} (blocks : (s.service v).cb.blocks = k :: ks)
    (heard : (s.service v).sel.muted = false) :
    appendHead v s =
      let units := blockUnits (s.service v).cb.form k
      if bytesHeld (s.service v).om + unitsCost units ≤ 256 then
        some (s.updService v fun y =>
          { y with om := { y.om with fifo := y.om.fifo ++ units }, cb := afterAppend y.cb k })
      else none := by
  rw [appendHead, blocks]
  dsimp only
  rw [if_neg (by rw [heard]; decide), appendUnits, State.updOm, State.updCb, updService_updService]
  simp only [fits_iff (blockUnits_ne_nil (s.service v).cb.form k)]

theorem afterAppend_text {c : Builder} {k : Block} {ks : List Block} (blocks : c.blocks = k :: ks) (y : TextBlock) :
    afterAppend c (.text y) =
      { c with blocks := ks, form := .block, shown := some (y.showFrame, y.dur)
               timer := if y.trailing = none then .waiting else .idle } := by
  rw [afterAppend, blocks]
  cases y.trailing <;> rfl

theorem afterAppend_clearOnly {c : Builder} {k : Block} {ks : List Block} (blocks : c.blocks = k :: ks)
    (f t : Frame) (p : Frame) : afterAppend c (.clearOnly f t p) = { c with blocks := ks, timer := .idle } := by
  rw [afterAppend, blocks]; rfl

theorem attemptAppend_of_head {k : Block} {ks : List Block} {t : State} (blocks : (s.service v).cb.blocks = k :: ks)
    (head : appendHead v s = some t) : attemptAppend v s = appendBlocks v ks.length t := by
  rw [attemptAppend, blocks, List.length_cons, appendBlocks, head]

theorem attemptAppend_none (none : appendHead v s = none) : attemptAppend v s = s := by
  rw [attemptAppend]
  cases (s.service v).cb.blocks.length with
  | zero => rfl
  | succ n => rw [appendBlocks, none]

/-! ### The timed clears (R130, R135) -/

theorem staleDue_iff : staleDue s v = true ↔
    (s.service v).record.enabled = true ∧ (s.service v).record.tclear ≠ 0 ∧ (s.service v).cb.form = .rolling ∧
      0 < (s.service v).cb.fill ∧ ∃ f, (s.service v).cb.lastRelease = some f ∧
        ((s.service v).record.tclear : Int) ≤ frameDiff f s.pfn := by
  rw [staleDue]
  cases (s.service v).cb.lastRelease <;> simp [and_assoc]

theorem checkStale_eq (passes : staleDue s v = true ∧ bytesHeld (s.service v).om < 256) :
    checkStale v s = s.updService v fun y =>
      { y with
        om := { y.om with fifo := y.om.fifo ++ [clearUnit] }
        cb := { y.cb with fill := 0, newRow := false, timer := .idle, timedClears := bump y.cb.timedClears } } := by
  rw [checkStale, if_pos, appendUnits, State.updOm, State.updCb, updService_updService]
  rw [Bool.and_eq_true, decide_eq_true_iff, freeRoom_pos_iff]
  exact passes

theorem checkStale_off (off : ¬ (staleDue s v = true ∧ bytesHeld (s.service v).om < 256)) : checkStale v s = s := by
  refine if_neg ?_
  rw [Bool.and_eq_true, decide_eq_true_iff, freeRoom_pos_iff]
  exact off

theorem checkDmax_eq {due : Frame} (timer : (s.service v).cb.timer = .running due)
    (come : atOrBefore due s.pfn = true) (room : bytesHeld (s.service v).om < 256) :
    checkDmax v s = s.updService v fun y =>
      { y with
        om := { y.om with fifo := y.om.fifo ++ [clearUnit] }
        cb := { y.cb with timer := .idle, timedClears := bump y.cb.timedClears } } := by
  rw [checkDmax, timer]
  dsimp only
  rw [come, Bool.true_and, if_pos (decide_eq_true (freeRoom_pos_iff.mpr room)), appendUnits, State.updOm, State.updCb,
    updService_updService]

theorem checkDmax_off (off : ¬ ((∃ due, (s.service v).cb.timer = .running due ∧ atOrBefore due s.pfn = true) ∧
    bytesHeld (s.service v).om < 256)) : checkDmax v s = s := by
  rw [checkDmax]
  cases timer : (s.service v).cb.timer with
  | running due =>
    refine if_neg ?_
    rw [Bool.and_eq_true, decide_eq_true_iff, freeRoom_pos_iff]
    rintro ⟨come, room⟩
    exact off ⟨⟨due, timer, come⟩, room⟩
  | idle => rfl
  | waiting => rfl

/-! ### The end of a drain (R103) -/

theorem drainCheck_off (off : (s.service v).runner.phase ≠ .draining ∨
    ∀ k, (s.service v).runner.story = some k → ∃ u ∈ (s.service v).om.fifo, u.story = some k) :
    drainCheck v s = s := by
  by_cases phase : (s.service v).runner.phase = .draining
  · cases story : (s.service v).runner.story with
    | none => rw [drainCheck, story]
    | some k =>
      obtain ⟨u, mem, own⟩ := off.resolve_left (fun h => h phase) k story
      rw [drainCheck_of_draining phase story, if_neg fun none => none u mem own]
  · rw [drainCheck]
    cases story : (s.service v).runner.story with
    | none => rfl
    | some k =>
      refine if_neg fun both => phase ?_
      rw [Bool.and_eq_true, decide_eq_true_iff] at both
      exact both.1

end

/-- Settles O60, one check after another. -/
theorem builderChecksPass : Obligations.BuilderChecksPass := by
  refine ⟨fun form y => ?_, ?_⟩
  · refine ⟨?_, unitsCost_text form y, fun f t c => rfl⟩
    rw [blockUnits_text]
    cases y.trailing <;> rfl
  · intro s v awake x b o clear taken
    refine ⟨fun due => ?_, fun due => ?_, fun due => ?_, fun due => ?_, fun due => ?_⟩
    · intro checked
      have runs : exec (.blockHoldExpiry v) s = .next (settle (checkHold v (taken (.blockHold v)))) :=
        exec_of_alone (w := .blockHold v) awake rfl due nofun nofun
      rw [runs]
      refine ⟨fun empty => ?_, fun p ps words => ?_⟩
      · rw [checkHold_stays (s := taken (.blockHold v)) (.inl (holdPassed_empty empty))]; rfl
      · intro past
        have iff : holdPassed (taken (.blockHold v)) v = true ↔ past := holdPassed_iff (s := taken (.blockHold v)) words
        refine ⟨fun off => ?_, fun passed none room => ?_, fun passed none full => ?_⟩
        · rw [checkHold_stays (s := taken (.blockHold v)) (off.imp_left fun h => Bool.eq_false_iff.mpr (iff.not.mpr h))]
          rfl
        · rw [checkHold_room (s := taken (.blockHold v)) words (iff.mpr passed) none room]
          rfl
        · rw [checkHold_full (s := taken (.blockHold v)) words (iff.mpr passed) none full]
          rfl
    · have runs : exec (.blockAppend v) s = .next (settle (attemptAppend v (taken (.append v)))) :=
        exec_of_alone (w := .append v) awake rfl due nofun nofun
      refine ⟨fun empty => ?_, fun k ks blocks => ?_⟩
      · rw [runs, attemptAppend_none (appendHead_empty (s := taken (.append v)) empty)]
      · intro units goesOn
        have goes {u : State} (head : appendHead v (taken (.append v)) = some u) : goesOn u := by
          rw [attemptAppend_of_head (s := taken (.append v)) blocks head] at runs
          exact runs
        have heads (heard : x.sel.muted = false) := appendHead_heard (s := taken (.append v)) blocks heard
        refine ⟨fun muted => goes (appendHead_muted (s := taken (.append v)) blocks muted), fun heard full => ?_,
          fun y heard room text => goes ?_, fun f t c heard room only => goes ?_⟩
        · rw [runs, attemptAppend_none]
          rw [heads heard]
          exact if_neg (Nat.not_le.mpr full)
        · rw [heads heard]
          refine (if_pos room).trans (congrArg some (updService_congr ?_))
          subst text
          dsimp only
          rw [afterAppend_text (c := ((taken (.append v)).service v).cb) blocks]
          rfl
        · have fits : bytesHeld x.om + unitsCost units ≤ 256 := by
            show bytesHeld x.om + unitsCost (blockUnits b.form k) ≤ 256
            rw [only]; exact room
          rw [heads heard]
          refine (if_pos fits).trans (congrArg some (updService_congr ?_))
          subst only
          dsimp only
          rw [afterAppend_clearOnly (c := ((taken (.append v)).service v).cb) blocks]
          rfl
    · intro passes
      have runs : exec (.staleClear v) s = .next (settle (checkStale v (taken (.stale v)))) :=
        exec_of_alone (w := .stale v) awake rfl due nofun nofun
      have iff : (staleDue (taken (.stale v)) v = true ∧ bytesHeld x.om < 256) ↔ passes := by
        rw [staleDue_iff]
        simp only [and_assoc, passes]
        rfl
      rw [runs]
      refine ⟨fun off => ?_, fun on => ?_⟩
      · rw [checkStale_off (s := taken (.stale v)) (iff.not.mpr off)]
      · rw [checkStale_eq (s := taken (.stale v)) (iff.mpr on)]
        rfl
    · intro passes
      have runs : exec (.dmaxClear v) s = .next (settle (checkDmax v (taken (.dmax v)))) :=
        exec_of_alone (w := .dmax v) awake rfl due nofun nofun
      rw [runs]
      refine ⟨fun off => ?_, fun on => ?_⟩
      · rw [checkDmax_off (s := taken (.dmax v)) off]
      · obtain ⟨⟨f, timer, come⟩, room⟩ := on
        rw [checkDmax_eq (s := taken (.dmax v)) timer come room]
        rfl
    · have runs : exec (.drainComplete v) s = .next (settle (drainCheck v (taken (.drain v)))) :=
        exec_of_alone (w := .drain v) awake rfl due nofun nofun
      rw [runs]
      refine ⟨fun k phase story gone => ?_, fun off => ?_⟩
      · rw [drainCheck_of_draining (s := taken (.drain v)) phase story,
          if_pos (show ∀ u ∈ ((taken (.drain v)).service v).om.fifo, u.story ≠ some k from gone)]
        rfl
      · rw [drainCheck_off (s := taken (.drain v)) off]

end Sys2Proof.Machine
end

section
/-! The reactions of a builder (O59): their order, the closing of the open block, the placing of pieces and
of words. -/

namespace Sys2Proof.Machine

/-! ### The reactions of an event (log 4) -/

section

variable {s : State}

theorem settleUpTo_settled (n : Nat) (none : Settled s) : settleUpTo n s = s := by
  cases n with
  | zero => rfl
  | succ n => rw [settleUpTo, show react s = .none from none]

theorem settled_due (ws : List Work) : Settled { s with due := ws } ↔ Settled s :=
  settled_congr (fun _ => ⟨rfl, rfl, rfl⟩) fun _ => ⟨rfl, rfl, rfl⟩

/-- A sequence of states with one more at its head. -/
def consState (s : State) (f : Nat → State) : Nat → State
  | 0 => s
  | i + 1 => f i

/-- The states between the reactions that `settleUpTo` takes. -/
theorem settleUpTo_between (n : Nat) (s : State) : ∃ (k : Nat) (between : Nat → State),
    between 0 = s ∧ between k = settleUpTo n s ∧ (∀ i < k, react (between i) = some (between (i + 1))) ∧
      k ≤ n ∧ (k < n → Settled (settleUpTo n s)) := by
  induction n generalizing s with
  | zero => exact ⟨0, fun _ => s, rfl, rfl, fun i h => absurd h (Nat.not_lt_zero i), le_rfl, fun h => absurd h (Nat.lt_irrefl 0)⟩
  | succ n ih =>
    cases next : react s with
    | none =>
      have stays : settleUpTo (n + 1) s = s := settleUpTo_settled _ next
      exact ⟨0, fun _ => s, rfl, stays.symm, fun i h => absurd h (Nat.not_lt_zero i), Nat.zero_le _,
        fun _ => by rw [stays]; exact next⟩
    | some t =>
      have goes : settleUpTo (n + 1) s = settleUpTo n t := by rw [settleUpTo, next]
      obtain ⟨k, between, start, stop, steps, bound, settled⟩ := ih t
      refine ⟨k + 1, consState s between, rfl, stop.trans goes.symm, fun i below => ?_, Nat.succ_le_succ bound,
        fun less => by rw [goes]; exact settled (Nat.lt_of_succ_lt_succ less)⟩
      cases i with
      | zero => rw [consState, next, consState, start]
      | succ i => exact steps i (Nat.lt_of_succ_lt_succ below)

end

/-! ### Which reaction of a builder comes first -/

section

variable {s t : State} {v : ServiceIx}

theorem react_of_builder (before : ∀ w < v, builderReact w s = none) (here : builderReact v s = some t) :
    react s = some t := by
  have first : firstOf (fun v => builderReact v s) = some t := firstOf_eq_some (i := v) before here
  rw [react, first]; rfl

theorem builderReact_closing (closing : carryOutClosing v s = some t) : builderReact v s = some t := by
  rw [builderReact, closing]; rfl

theorem builderReact_form (closing : carryOutClosing v s = none) (form : formBlock v s = some t) :
    builderReact v s = some t := by
  rw [builderReact, closing, form]; rfl

theorem builderReact_take (closing : carryOutClosing v s = none) (form : formBlock v s = none)
    (take : takeHead v s = some t) : builderReact v s = some t := by
  rw [builderReact, closing, form, take]; rfl

theorem takeReaction_some {f : State → Option State} (h : f s = some t) : takeReaction f s = settle t := by
  rw [takeReaction, h]

theorem takeReaction_none {f : State → Option State} (h : f s = none) : takeReaction f s = s := by
  rw [takeReaction, h]

theorem exec_popOnTake (awake : s.resetLow = false) :
    exec (.popOnTake v) s = .next (takeReaction (takeHead v) s) :=
  congrArg Host.Outcome.next (whenAwake_awake _ awake)

theorem exec_pendingClosing (awake : s.resetLow = false) :
    exec (.pendingClosing v) s = .next (takeReaction (carryOutClosing v) s) :=
  congrArg Host.Outcome.next (whenAwake_awake _ awake)

theorem exec_cueBlockFormation (awake : s.resetLow = false) :
    exec (.cueBlockFormation v) s = .next (takeReaction (formBlock v) s) :=
  congrArg Host.Outcome.next (whenAwake_awake _ awake)

theorem blockRoom_iff {b : Builder} : blockRoom b = true ↔ b.blocks.length < 4 := decide_eq_true_iff

theorem blockRoom_eq_false {b : Builder} : blockRoom b = false ↔ ¬ b.blocks.length < 4 := decide_eq_false_iff_not

end

/-! ### The open block at an append and at a closing (R128, R134) -/

section

variable {s t : State} {v : ServiceIx} {c : CloseCause}

theorem openBlock_appendHead (h : appendHead v s = some t) :
    (t.service v).cb.openBlock = (s.service v).cb.openBlock := by
  cases blocks : (s.service v).cb.blocks with
  | nil => rw [appendHead_empty blocks] at h; exact absurd h (by simp)
  | cons k ks =>
    cases muted : (s.service v).sel.muted with
    | true =>
      rw [appendHead_muted blocks muted] at h
      rw [← Option.some.inj h, service_updService_same]
    | false =>
      rw [appendHead_heard blocks muted] at h
      dsimp only at h
      split at h
      · rw [← Option.some.inj h, service_updService_same]
        cases k with
        | text y => rw [afterAppend_text blocks]
        | clearOnly => rw [afterAppend_clearOnly blocks]
      · exact absurd h (by simp)

theorem openBlock_appendBlocks (n : Nat) (s : State) :
    ((appendBlocks v n s).service v).cb.openBlock = (s.service v).cb.openBlock := by
  induction n generalizing s with
  | zero => rfl
  | succ n ih =>
    rw [appendBlocks]
    cases head : appendHead v s with
    | none => rfl
    | some t => exact (ih t).trans (openBlock_appendHead head)

theorem openBlock_attemptAppend (s : State) :
    ((attemptAppend v s).service v).cb.openBlock = (s.service v).cb.openBlock := openBlock_appendBlocks ..

theorem record_closeOpen (w : ServiceIx) : ((closeOpen v c s).service w).record = (s.service w).record :=
  (builds_closeOpen v c s).record w

/-- R128: a closing leaves an empty open block, or one that is to close. -/
theorem openBlock_closeOpen (closed : ((closeOpen v c s).service v).cb.openBlock.closing = none) :
    ((closeOpen v c s).service v).cb.openBlock.words = [] ∧
      ((s.service v).cb.openBlock.words ≠ [] → ((closeOpen v c s).service v).cb.openBlock.rows = []) := by
  cases words : (s.service v).cb.openBlock.words with
  | nil =>
    rw [closeOpen_empty words]
    exact ⟨words, fun h => absurd rfl h⟩
  | cons p ps =>
    by_cases room : (s.service v).cb.blocks.length < 4
    · have emptied : ((closeOpen v c s).service v).cb.openBlock = emptyOpenBlock := by
        rw [closeOpen_room words room, closeNow_eq words, openBlock_attemptAppend, service_updCb_same]; rfl
      rw [emptied]
      exact ⟨rfl, fun _ => rfl⟩
    · rw [closeOpen_full words (not_lt.mp room), updOpen, service_updCb_same] at closed
      exact absurd closed (by simp)

end

/-! ### Pieces in the rows left, over a closing and as a carry (R127) -/

section

variable {s : State} {v : ServiceIx} {w : WordRecord} {t : Frame} {started whole : Bool}

/-- R127: the open block after the pieces ps, the word being among its words with the first of them. -/
def withPieces (w : WordRecord) (t : Frame) (started whole : Bool) (ps : List Row) (o : OpenBlock) : OpenBlock :=
  { o with
    rows := o.rows ++ ps
    words := if started then o.words else
      o.words ++ [{ word := w, target := t, before := o.rows, whole := whole }] }

theorem pushPiece_eq (p : Row) (o : OpenBlock) :
    pushPiece w t started whole p o = withPieces w t started whole [p] o := by
  cases started <;> rfl

theorem withPieces_cons (p : Row) (ps : List Row) (o : OpenBlock) :
    withPieces w t true whole ps (withPieces w t started whole [p] o) = withPieces w t started whole (p :: ps) o := by
  simp [withPieces]

theorem openBlock_updOpen (f : OpenBlock → OpenBlock) :
    ((updOpen v f s).service v).cb.openBlock = f (s.service v).cb.openBlock := by
  rw [updOpen, service_updCb_same]

theorem record_updOpen (f : OpenBlock → OpenBlock) : ((updOpen v f s).service v).record = (s.service v).record := by
  rw [updOpen, service_updCb_same]

theorem updOpen_updOpen (f g : OpenBlock → OpenBlock) :
    updOpen v g (updOpen v f s) = updOpen v (fun o => g (f o)) s := updCb_updCb ..

theorem placePieces_row {p : Row} {ps : List Row} (room : (s.service v).cb.openBlock.rows.length < (s.service v).record.rows)
    (going : (s.service v).cb.openBlock.closing = none) :
    placePieces v w t (p :: ps) started whole s =
      placePieces v w t ps true whole (updOpen v (withPieces w t started whole [p]) s) := by
  have pushed : pushPiece w t started whole p = withPieces w t started whole [p] := funext (pushPiece_eq p)
  rw [placePieces]
  dsimp only
  rw [if_pos ⟨room, going⟩, pushed]

theorem placePieces_rows {ps qs : List Row} (some : ps ≠ []) (going : (s.service v).cb.openBlock.closing = none)
    (room : (s.service v).cb.openBlock.rows.length + ps.length ≤ (s.service v).record.rows) :
    placePieces v w t (ps ++ qs) started whole s =
      placePieces v w t qs true whole (updOpen v (withPieces w t started whole ps) s) := by
  induction ps generalizing s started with
  | nil => exact absurd rfl some
  | cons p ps ih =>
    rw [List.length_cons] at room
    rw [List.cons_append, placePieces_row (by omega) going]
    cases ps with
    | nil => rfl
    | cons q ps =>
      rw [ih (by simp), updOpen_updOpen]
      · simp only [withPieces_cons]
      · rw [openBlock_updOpen]; exact going
      · rw [openBlock_updOpen, record_updOpen]
        simp only [withPieces, List.length_append, List.length_cons, List.length_nil] at room ⊢
        omega

theorem placePieces_over {p : Row} {ps : List Row}
    (spent : (s.service v).record.rows ≤ (s.service v).cb.openBlock.rows.length ∨
      (s.service v).cb.openBlock.closing ≠ none) (words : (s.service v).cb.openBlock.words ≠ [])
    (most : 1 ≤ (s.service v).record.rows) :
    let shut := closeOpen v .ordinary s
    placePieces v w t (p :: ps) started whole s =
      if (shut.service v).cb.openBlock.closing = none then placePieces v w t (p :: ps) false (whole && !started) shut
      else updOpen v (fun o => { o with carry := some { pieces := p :: ps, word := w, target := t } }) shut := by
  intro shut
  have not : ¬ ((s.service v).cb.openBlock.rows.length < (s.service v).record.rows ∧
      (s.service v).cb.openBlock.closing = none) := by
    rintro ⟨room, going⟩
    exact spent.elim (fun h => absurd room (Nat.not_lt.mpr h)) (fun h => h going)
  rw [placePieces]
  dsimp only
  rw [if_neg not]
  by_cases closed : (shut.service v).cb.openBlock.closing = none
  · have empty : (shut.service v).cb.openBlock.rows = [] := (openBlock_closeOpen closed).2 words
    have room : (shut.service v).cb.openBlock.rows.length < (shut.service v).record.rows := by
      rw [empty, record_closeOpen]; exact most
    have pushed : pushPiece w t false (whole && !started) p = withPieces w t false (whole && !started) [p] :=
      funext (pushPiece_eq p)
    rw [if_neg (by rw [show ((closeOpen v .ordinary s).service v).cb.openBlock.closing = none from closed]; decide),
      if_pos closed, placePieces_row room closed, pushed]
  · rw [if_pos (Option.isSome_iff_ne_none.mpr closed), if_neg closed]

end

end Sys2Proof.Machine
end

section
/-! The takes of a builder (O59): a WORD, a CLEAR and a CUE, a pending closing and a formation. -/

namespace Sys2Proof.Machine

/-! ### The head that a take removes (R116) -/

section

variable {s : State} {v : ServiceIx} {e : Entry} {rest : List Entry}

theorem dropHead_eq (queue : (s.service v).sched.queue = e :: rest) :
    dropHead v e s =
      { s.updSched v (fun q => { q with queue := rest, lastLeft := some e.target }) with
        lines := s.lines.map fun y =>
          if y.asm.held.map Held.on = some v then { y with asm := { y.asm with retryOwed := true } } else y } := by
  have services : ((s.updSched v fun q => { q with queue := q.queue.tail }).updSched v fun q =>
      { q with lastLeft := some e.target }) =
      s.updSched v fun q => { q with queue := rest, lastLeft := some e.target } := by
    rw [State.updSched, State.updSched, State.updSched, updService_updService]
    refine updService_congr ?_
    dsimp only
    rw [queue]
    rfl
  have lines : oweRetry v = fun y =>
      if y.asm.held.map Held.on = some v then { y with asm := { y.asm with retryOwed := true } } else y :=
    funext (oweRetry_eq v)
  rw [dropHead, departed, services, lines]
  rfl

theorem service_dropHead : (dropHead v e s).service v =
    { s.service v with sched := { (s.service v).sched with
      queue := (s.service v).sched.queue.tail, lastLeft := some e.target } } := by
  have both : (dropHead v e s).service v =
      ((s.updSched v fun q => { q with queue := q.queue.tail }).updSched v fun q =>
        { q with lastLeft := some e.target }).service v := rfl
  rw [both, service_updSched_same, service_updSched_same]

/-- R116: the builder may take the head e of its queue. -/
structure Takes (s : State) (v : ServiceIx) (e : Entry) (rest : List Entry) : Prop where
  on : (s.service v).record.enabled = true
  room : (s.service v).cb.blocks.length < 4
  going : (s.service v).cb.openBlock.closing = none
  idle : (s.service v).cb.cue = none
  queue : (s.service v).sched.queue = e :: rest

theorem Takes.takeHead (h : Takes s v e rest) :
    takeHead v s = if popOnPath (s.service v).record.display e.body = true then
      some (match e.body with
        | .word w => takeWord v w e.target (dropHead v e s)
        | .clear _ _ => takeClear v e.target (dropHead v e s)
        | .cue st ix text _ => takeCue v st ix text e.target (dropHead v e s))
      else none := by
  obtain ⟨on, room, going, idle, queue⟩ := h
  simp only [Machine.takeHead, on, going, idle, blockRoom_iff.mpr room, queue, Option.isNone_none, Bool.and_self, if_true]
  cases e.body <;> rfl

theorem Takes.quiet (h : Takes s v e rest) : carryOutClosing v s = none ∧ formBlock v s = none :=
  ⟨carryOutClosing_eq_none.mpr (.inl h.going), formBlock_eq_none.mpr (.inl h.idle)⟩

/-- What no state of the builder lets it take. -/
theorem takeHead_barred (barred : ¬ (s.service v).cb.blocks.length < 4 ∨ (s.service v).cb.openBlock.closing ≠ none ∨
    (s.service v).cb.cue ≠ none ∨ (s.service v).sched.queue = [] ∨ (s.service v).record.enabled = false) :
    takeHead v s = none := by
  rw [takeHead_eq_none]
  rcases barred with h | h | h | h | h
  · exact .inl (by rw [mayTake, blockRoom_eq_false.mpr h, Bool.and_false])
  · exact .inl (by rw [mayTake, Option.isNone_eq_false_iff.mpr (Option.isSome_iff_ne_none.mpr h)]; simp)
  · exact .inl (by rw [mayTake, Option.isNone_eq_false_iff.mpr (Option.isSome_iff_ne_none.mpr h)]; simp)
  · exact .inr fun e head => by rw [h] at head; exact absurd head (by simp)
  · exact .inl (by rw [mayTake, h]; rfl)

/-- A builder with nothing to close, to form or to take has no reaction. -/
theorem builderReact_quiet (quiet : ¬ (s.service v).cb.blocks.length < 4 ∨
    (s.service v).cb.openBlock.closing = none ∧ (s.service v).cb.cue = none ∧
      ((s.service v).sched.queue = [] ∨ (s.service v).record.enabled = false ∨
        (s.service v).record.display = .rollUp ∧ ∀ e rest, (s.service v).sched.queue = e :: rest →
          ∀ k i t a, e.body ≠ .cue k i t a)) : builderReact v s = none := by
  rw [builderReact_eq_none]
  rcases quiet with full | ⟨going, idle, head⟩
  · have none := blockRoom_eq_false.mpr full
    exact ⟨.inr none, .inr (.inr none), .inl (by rw [mayTake, none, Bool.and_false])⟩
  · refine ⟨.inl going, .inl idle, ?_⟩
    rcases head with empty | off | ⟨rollUp, noCue⟩
    · exact .inr fun e h => by rw [empty] at h; exact absurd h (by simp)
    · exact .inl (by rw [mayTake, off]; rfl)
    · refine .inr fun e h => ?_
      obtain ⟨rest, queue⟩ : ∃ rest, (s.service v).sched.queue = e :: rest := List.head?_eq_some_iff.mp h
      exact rollUpHead_iff.mp ⟨rollUp, noCue e rest queue⟩

end

/-! ### A word in the rows of the open block (R127) -/

section

variable {width most : Nat} {w : WordRecord} {rows above : List Row} {row : Row}

/-- R127: the space before a word that continues a row. -/
def rowSpace (w : WordRecord) (row : Row) : Row := if row = [] ∨ w.cont = true then [] else [0x20#8]

theorem fitRows_onRow (fits : row.length + (rowSpace w row).length + (wordText w).length ≤ width) :
    fitRows width most w (above ++ [row]) = some (above ++ [row ++ rowSpace w row ++ wordText w]) := by
  have sep : (if row.isEmpty || w.cont then [] else [0x20#8] : Row) = rowSpace w row := by
    rw [rowSpace]; simp only [Bool.or_eq_true, List.isEmpty_iff]
  rw [fitRows, List.getLast?_concat, List.dropLast_concat]
  dsimp only
  rw [sep, if_pos fits]

theorem fitRows_offRow (not : ¬ row.length + (rowSpace w row).length + (wordText w).length ≤ width) :
    fitRows width most w (above ++ [row]) =
      if (wordText w).length ≤ width ∧ (above ++ [row]).length < most then some (above ++ [row] ++ [wordText w])
      else none := by
  have sep : (if row.isEmpty || w.cont then [] else [0x20#8] : Row) = rowSpace w row := by
    rw [rowSpace]; simp only [Bool.or_eq_true, List.isEmpty_iff]
  rw [fitRows, List.getLast?_concat, List.dropLast_concat]
  dsimp only
  rw [sep, if_neg not]

theorem fitRows_empty : fitRows width most w [] =
    if (wordText w).length ≤ width ∧ 0 < most then some [wordText w] else none := by
  rw [fitRows]; rfl

/-- A word longer than a row fits nowhere. -/
theorem fitRows_long (long : width < (wordText w).length) : fitRows width most w rows = none := by
  have short : ¬ ((wordText w).length ≤ width ∧ rows.length < most) := fun h => absurd h.1 (Nat.not_le.mpr long)
  rcases List.eq_nil_or_concat rows with rfl | ⟨above, row, rfl⟩
  · rw [fitRows_empty, if_neg fun h => absurd h.1 (Nat.not_le.mpr long)]
  · rw [List.concat_eq_append] at short ⊢
    rw [fitRows_offRow (by omega), if_neg short]

variable {s : State} {v : ServiceIx} {t : Frame} {new : List Row}

/-- R127: the break-after of a word. -/
def endedBy (v : ServiceIx) (w : WordRecord) (u : State) : State :=
  if w.breakAfter then closeOpen v .ordinary u else u

theorem placeWord_fits
    (fits : fitRows (s.service v).record.width (s.service v).record.rows w (s.service v).cb.openBlock.rows = some new) :
    placeWord v w t s = endedBy v w (s.updCb v fun c => { c with openBlock :=
      { c.openBlock with
        words := c.openBlock.words ++ [{ word := w, target := t, before := (s.service v).cb.openBlock.rows, whole := true }]
        rows := new } }) := by
  have pushed : updOpen v (pushWord w t true new) s = s.updCb v fun c => { c with openBlock :=
      { c.openBlock with
        words := c.openBlock.words ++ [{ word := w, target := t, before := (s.service v).cb.openBlock.rows, whole := true }]
        rows := new } } := by rw [updOpen]; exact updService_congr rfl
  rw [placeWord, fits]
  dsimp only
  rw [pushed]
  rfl

theorem placeWord_cut
    (none : fitRows (s.service v).record.width (s.service v).record.rows w (s.service v).cb.openBlock.rows = .none) :
    placeWord v w t s = placePieces v w t (if (wordText w).length ≤ (s.service v).record.width then [wordText w]
      else chunk (s.service v).record.width (wordText w).length (wordText w)) false true (closeOpen v .ordinary s) := by
  rw [placeWord, none]

/-- R138: the hold expiry of the open block is still to be taken at this frame start. -/
theorem expiryMeets_eq : expiryMeets s v = (decide (Work.blockHold v ∈ s.due) &&
    (s.service v).cb.openBlock.words.head?.elim false fun p => (s.service v).cb.openBlock.expiring ||
      atOrBefore (p.target + BitVec.ofNat 32 (s.service v).record.holdLimit) s.pfn) := by
  have due : s.due.contains (.blockHold v) = decide (Work.blockHold v ∈ s.due) := by
    rw [Bool.eq_iff_iff, decide_eq_true_iff]; exact List.contains_iff_mem
  rw [expiryMeets, due]
  refine congrArg _ ?_
  cases words : (s.service v).cb.openBlock.words with
  | nil => rw [holdPassed_empty words]; rfl
  | cons p ps =>
    rw [Bool.eq_iff_iff, holdPassed_iff words]
    simp

end

/-! ### A CLEAR (R130) -/

section

variable {s : State} {v : ServiceIx} {t : Frame}

theorem takeClear_open {p : Placed} {ps : List Placed} (words : (s.service v).cb.openBlock.words = p :: ps) :
    takeClear v t s = closeNow v .ordinary (some t) s := by
  rw [takeClear, words]; rfl

theorem takeClear_text {older : List Block} {y : TextBlock} (words : (s.service v).cb.openBlock.words = [])
    (blocks : (s.service v).cb.blocks = older ++ [.text y]) (live : y.story = none) :
    takeClear v t s = s.updCb v fun c => { c with blocks := older ++ [.text { y with
      trailing := if y.trailing = none then some t else y.trailing }] } := by
  have last : (s.service v).cb.blocks.getLast? = some (.text y) := by rw [blocks, List.getLast?_concat]
  simp only [takeClear, words, List.isEmpty_nil, Bool.not_true, Bool.false_eq_true, if_false, last,
    Option.isNone_iff_eq_none]
  rw [if_pos live]
  by_cases none : y.trailing = none
  · have trailed : trailYoungest t (s.service v).cb.blocks = older ++ [.text { y with trailing := some t }] := by
      rw [trailYoungest, last, blocks, List.dropLast_concat]
    rw [if_pos none, if_pos none]
    refine updService_congr ?_
    dsimp only
    rw [trailed]
  · rw [if_neg none, if_neg none]
    refine (updService_eq_self ?_).symm
    dsimp only
    rw [← blocks]

theorem takeClear_alone (words : (s.service v).cb.openBlock.words = [])
    (none : ∀ older y, (s.service v).cb.blocks = older ++ [.text y] → y.story ≠ none) :
    takeClear v t s = joinBlock v (.clearOnly t t s.pfn) s := by
  simp only [takeClear, words, List.isEmpty_nil, Bool.not_true, Bool.false_eq_true, if_false]
  split
  · next y last =>
    obtain ⟨older, blocks⟩ := List.getLast?_eq_some_iff.mp last
    rw [if_neg (by rw [Option.isNone_iff_eq_none]; exact none older y blocks)]
  · rfl

/-! ### Pending closings and formations (R128, R131) -/

theorem carryOutClosing_of_room {cause : CloseCause} (closing : (s.service v).cb.openBlock.closing = some cause)
    (room : (s.service v).cb.blocks.length < 4) :
    carryOutClosing v s = some ((s.service v).cb.openBlock.carry.elim (closeNow v cause none s) fun k =>
      let u := placePieces v k.word k.target k.pieces false false (closeNow v cause none s)
      if (s.service v).cb.openBlock.expiring then markExpiring v u else u) := by
  simp only [carryOutClosing, closing, blockRoom_iff.mpr room, if_true]
  cases (s.service v).cb.openBlock.carry <;> rfl

theorem formBlock_of_groups {f : Formation} {g : List Row} {gs : List (List Row)} (cue : (s.service v).cb.cue = some f)
    (groups : f.groups = g :: gs) (going : (s.service v).cb.openBlock.closing = none)
    (room : (s.service v).cb.blocks.length < 4) :
    formBlock v s = some (attemptAppend v (s.updCb v fun c =>
      { c with
        cue := if gs = [] then none else some { f with groups := gs }
        blocks := c.blocks ++ [.text (closedText s v g f.target (some f.story) none)]
        blocksClosed := bump c.blocksClosed })) := by
  simp only [formBlock, cue, going, blockRoom_iff.mpr room, groups, joinBlock, updCb_updCb, List.isEmpty_iff]
  rfl

end

end Sys2Proof.Machine
end

section
/-! The obligation on the builder's reactions (O59), clause by clause. -/

namespace Sys2Proof.Machine

section

variable {s t : State} {v : ServiceIx} {e : Entry} {rest : List Entry}

/-- The reactions of an event, one after another. -/
theorem settle_between (s : State) : ∃ (n : Nat) (between : Nat → State), between 0 = s ∧ between n = settle s ∧
    (∀ i < n, react (between i) = some (between (i + 1))) ∧ n ≤ 1048576 ∧ (n < 1048576 → Settled (settle s)) :=
  settleUpTo_between Config.settleFuel s

/-- R128: the open block closes at once, or is to close when the block queue is full. -/
theorem closeOpen_cases (v : ServiceIx) (cause : CloseCause) (s : State) :
    let b := (s.service v).cb
    let o := b.openBlock
    (o.words = [] → closeOpen v cause s = s) ∧
    (∀ p ps, o.words = p :: ps →
      (b.blocks.length < 4 → closeOpen v cause s = attemptAppend v (s.updCb v
        (blockClosed (.text (closedText s v o.rows p.target none none)) (o.closing.getD cause)))) ∧
      (4 ≤ b.blocks.length → closeOpen v cause s = s.updCb v fun c =>
        { c with openBlock := { o with closing := some (o.closing.getD cause) } })) := by
  intro b o
  refine ⟨closeOpen_empty, fun p ps words => ⟨fun room => ?_, fun full => ?_⟩⟩
  · rw [closeOpen_room words room, closeNow_eq words]
  · rw [closeOpen_full words full, updOpen]
    exact updService_congr rfl

/-! ### A reaction and its command -/

/-- The command c answers the state u with its reactions, and u is the first reaction of s when no builder
of a lower service has one. -/
def Answers (c : Instr) (s : State) (v : ServiceIx) (u : State) : Prop :=
  exec c s = .next (settle u) ∧ ((∀ w < v, builderReact w s = none) → react s = some u)

theorem Takes.answers {u : State} (h : Takes s v e rest) (awake : s.resetLow = false) (take : Machine.takeHead v s = some u) :
    Answers (.popOnTake v) s v u := by
  refine ⟨?_, fun before => react_of_builder before (builderReact_take h.quiet.1 h.quiet.2 take)⟩
  rw [exec_popOnTake awake, takeReaction_some take]

theorem answers_pendingClosing {u : State} (awake : s.resetLow = false) (close : carryOutClosing v s = some u) :
    Answers (.pendingClosing v) s v u := by
  refine ⟨?_, fun before => react_of_builder before (builderReact_closing close)⟩
  rw [exec_pendingClosing awake, takeReaction_some close]

theorem answers_formation {u : State} (awake : s.resetLow = false) (going : (s.service v).cb.openBlock.closing = none)
    (form : formBlock v s = some u) : Answers (.cueBlockFormation v) s v u := by
  refine ⟨?_, fun before => react_of_builder before (builderReact_form (carryOutClosing_eq_none.mpr (.inl going)) form)⟩
  rw [exec_cueBlockFormation awake, takeReaction_some form]

/-! ### The takes of a WORD -/

/-- R127: the state in which a word is placed, the open block closed before it where the word asks for it. -/
def wordStart (v : ServiceIx) (w : WordRecord) (s : State) : State :=
  if w.speaker ∨ w.breakBefore then closeOpen v .ordinary s else s

/-- R138: the block that holds the word just placed is marked when the hold expiry has met the take. -/
def markedIf (met : Bool) (v : ServiceIx) (u : State) : State := if met then markExpiring v u else u

theorem takeWord_eq (v : ServiceIx) (w : WordRecord) (t : Frame) (s : State) :
    takeWord v w t s = markedIf (expiryMeets s v) v (placeWord v w t (wordStart v w s)) := by
  have start : (if (w.speaker || w.breakBefore) = true then closeOpen v .ordinary s else s) = wordStart v w s := by
    simp only [wordStart, Bool.or_eq_true]
  rw [takeWord, start]
  rfl

theorem record_wordStart (w : WordRecord) : ((wordStart v w s).service v).record = (s.service v).record := by
  rw [wordStart]; split
  · exact record_closeOpen v
  · rfl

theorem expiryMeets_dropHead : expiryMeets (dropHead v e s) v = expiryMeets s v := by
  rw [expiryMeets_eq, expiryMeets_eq, service_dropHead]
  rfl

/-- A word that is taken is placed in the open block as its start leaves it. -/
theorem Takes.word {w : WordRecord} (h : Takes s v e rest) (awake : s.resetLow = false)
    (pop : (s.service v).record.display = .popOn) (body : e.body = .word w) :
    Answers (.popOnTake v) s v
      (markedIf (expiryMeets s v) v (placeWord v w e.target (wordStart v w (dropHead v e s)))) := by
  refine h.answers awake ?_
  have onPath : popOnPath (s.service v).record.display e.body = true := by rw [pop, body]; rfl
  rw [h.takeHead, if_pos onPath, ← expiryMeets_dropHead (e := e), ← takeWord_eq, body]

theorem Takes.clear {l : LineIx} {f : Frame} (h : Takes s v e rest) (awake : s.resetLow = false)
    (pop : (s.service v).record.display = .popOn) (body : e.body = .clear l f) :
    Answers (.popOnTake v) s v (takeClear v e.target (dropHead v e s)) := by
  refine h.answers awake ?_
  have onPath : popOnPath (s.service v).record.display e.body = true := by rw [pop, body]; rfl
  rw [h.takeHead, if_pos onPath, body]

theorem Takes.cue {k i : Nat} {text : List Byte} {a : Frame} (h : Takes s v e rest) (awake : s.resetLow = false)
    (body : e.body = .cue k i text a) :
    Answers (.popOnTake v) s v (takeCue v k i text e.target (dropHead v e s)) := by
  refine h.answers awake ?_
  have onPath : popOnPath (s.service v).record.display e.body = true := by rw [body]; rfl
  rw [h.takeHead, if_pos onPath, body]

theorem Takes.refused (h : Takes s v e rest) (path : RollUpHead (s.service v) e) : Machine.takeHead v s = none := by
  rw [h.takeHead, if_neg (by rw [rollUpHead_iff.mp path]; decide)]

/-! ### A CUE laid out (R131) -/

theorem takeCue_eq (v : ServiceIx) (k i : Nat) (text : List Byte) (t : Frame) (s : State) :
    let r := (s.service v).record
    let lines := (segments text).flatMap fun seg => chunk r.width seg.length seg
    let groups := chunk r.rows lines.length lines
    takeCue v k i text t s = (closeOpen v .ordinary s).updCb v fun c =>
      { c with cue := if groups = [] then none else some { story := k, index := i, target := t, groups := groups } } := by
  intro r lines groups
  simp only [takeCue, List.isEmpty_iff]
  rfl

end

end Sys2Proof.Machine
end

section
/-! Where a taken word is placed, and the obligation on the builder's reactions settled (O59). -/

namespace Sys2Proof.Machine

section

variable {s : State} {v : ServiceIx} {w : WordRecord} {t : Frame} {above : List Row} {row : Row}

/-- R127: the word at the end of the open block, whose rows are then the new ones. -/
def putWord (v : ServiceIx) (w : WordRecord) (t : Frame) (s : State) (new : List Row) : State :=
  s.updCb v fun c => { c with openBlock :=
    { c.openBlock with
      words := c.openBlock.words ++ [{ word := w, target := t, before := (s.service v).cb.openBlock.rows, whole := true }]
      rows := new } }

theorem placeWord_onRow (rows : (s.service v).cb.openBlock.rows = above ++ [row])
    (fits : row.length + (rowSpace w row).length + (wordText w).length ≤ (s.service v).record.width) :
    placeWord v w t s = endedBy v w (putWord v w t s (above ++ [row ++ rowSpace w row ++ wordText w])) :=
  placeWord_fits (by rw [rows]; exact fitRows_onRow fits)

theorem placeWord_nextRow (rows : (s.service v).cb.openBlock.rows = above ++ [row])
    (not : ¬ row.length + (rowSpace w row).length + (wordText w).length ≤ (s.service v).record.width)
    (short : (wordText w).length ≤ (s.service v).record.width)
    (left : (s.service v).cb.openBlock.rows.length < (s.service v).record.rows) :
    placeWord v w t s = endedBy v w (putWord v w t s ((s.service v).cb.openBlock.rows ++ [wordText w])) := by
  refine placeWord_fits ?_
  rw [rows] at left ⊢
  rw [fitRows_offRow not, if_pos ⟨short, left⟩]

theorem placeWord_nextBlock (rows : (s.service v).cb.openBlock.rows = above ++ [row])
    (not : ¬ row.length + (rowSpace w row).length + (wordText w).length ≤ (s.service v).record.width)
    (short : (wordText w).length ≤ (s.service v).record.width)
    (full : (s.service v).record.rows ≤ (s.service v).cb.openBlock.rows.length) :
    placeWord v w t s = placePieces v w t [wordText w] false true (closeOpen v .ordinary s) := by
  rw [placeWord_cut, if_pos short]
  rw [rows] at full ⊢
  rw [fitRows_offRow not, if_neg fun h => absurd h.2 (Nat.not_lt.mpr full)]

theorem placeWord_firstRow (rows : (s.service v).cb.openBlock.rows = [])
    (short : (wordText w).length ≤ (s.service v).record.width) (most : 1 ≤ (s.service v).record.rows) :
    placeWord v w t s = endedBy v w (putWord v w t s [wordText w]) :=
  placeWord_fits (by rw [rows, fitRows_empty, if_pos ⟨short, most⟩])

theorem placeWord_long (long : (s.service v).record.width < (wordText w).length) (wide : 1 ≤ (s.service v).record.width) :
    ∃ pieces last, pieces.flatten ++ last = wordText w ∧ (∀ p ∈ pieces, p.length = (s.service v).record.width) ∧
      1 ≤ last.length ∧ last.length ≤ (s.service v).record.width ∧
      placeWord v w t s = placePieces v w t (pieces ++ [last]) false true (closeOpen v .ordinary s) := by
  have some : wordText w ≠ [] := List.ne_nil_of_length_pos (Nat.zero_lt_of_lt long)
  obtain ⟨pieces, last, cut, whole, full, least, most⟩ := chunk_eq wide (le_refl (wordText w).length) some
  refine ⟨pieces, last, whole, full, least, most, ?_⟩
  rw [placeWord_cut (fitRows_long long), if_neg (Nat.not_le.mpr long), cut]

end

/-- Settles O59. -/
theorem builderReacts : Obligations.BuilderReacts := by
  refine ⟨fun s => ⟨settings_settle s, settleUpTo_settled _, settled_due, settle_between s⟩,
    fun s v cause => closeOpen_cases v cause s, ?_, ?_⟩
  · intro s v w t started whole o most shut
    refine ⟨rfl, fun ps qs some going room => ?_, fun p ps spent words least => ?_⟩
    · rw [placePieces_rows some going room, updOpen]
      exact congrArg _ (updService_congr rfl)
    · have placed := placePieces_over (w := w) (t := t) (started := started) (whole := whole) (p := p) (ps := ps)
        spent words least
      exact ⟨fun closed => placed.trans (if_pos closed), fun open_ => placed.trans (if_neg open_)⟩
  · intro s v awake x b o room acts
    refine ⟨builderReact_quiet, fun barred => ?_, fun e rest on has going idle queue formed least => ?_,
      fun barred => ?_, fun cause p ps closing has words => ?_, fun barred => ?_,
      fun f g gs cue groups going has => answers_formation awake going (formBlock_of_groups cue groups going has)⟩
    · rw [exec_popOnTake awake, takeReaction_none (takeHead_barred barred)]
    · have takes : Takes s v e rest := ⟨on, has, going, idle, queue⟩
      intro left
      have leftIs : dropHead v e s = left := dropHead_eq queue
      refine ⟨?_, ?_, ?_, ?_⟩
      · intro rollUp noCue
        rw [exec_popOnTake awake, takeReaction_none (takes.refused ⟨rollUp, noCue⟩)]
      · intro w pop body text start rows put ended met marked width
        have record : (start.service v).record = x.record := by
          show ((wordStart v w left).service v).record = _
          rw [record_wordStart, ← leftIs, service_dropHead]
        have metIs : expiryMeets s v = met := by
          rw [expiryMeets_eq]
          simp only [met, o, b, x]
          cases (s.service v).cb.openBlock.words <;> rfl
        have taken {u : State} (h : placeWord v w e.target start = u) : Answers (.popOnTake v) s v (marked u) := by
          have word := takes.word awake pop body
          rw [leftIs, metIs] at word
          rw [← h]
          exact word
        refine ⟨fun above row split => ?_, fun none short => ?_, fun long wide => ?_⟩
        · intro sep fits
          refine ⟨fun fit => taken ?_, fun not short less => taken ?_, fun not short full => taken ?_⟩
          · exact placeWord_onRow split (by rw [record]; exact fit)
          · exact placeWord_nextRow split (by rw [record]; exact not) (by rw [record]; exact short)
              (by rw [record]; exact less)
          · exact placeWord_nextBlock split (by rw [record]; exact not) (by rw [record]; exact short)
              (by rw [record]; exact full)
        · exact taken (placeWord_firstRow none (by rw [record]; exact short) (by rw [record]; exact least))
        · obtain ⟨pieces, last, whole, each, some, most, placed⟩ :=
            placeWord_long (s := start) (v := v) (t := e.target) (by rw [record]; exact long) (by rw [record]; exact wide)
          rw [record] at each most
          exact ⟨pieces, last, whole, each, some, most, taken placed⟩
      · intro l f pop body joins
        have cb : (left.service v).cb = b := by rw [← leftIs, service_dropHead]
        have record : (left.service v).record = x.record := by rw [← leftIs, service_dropHead]
        have taken {u : State} (h : takeClear v e.target left = u) : Answers (.popOnTake v) s v u := by
          have clear := takes.clear awake pop body
          rw [leftIs, h] at clear
          exact clear
        refine ⟨fun p ps words => taken ?_, fun older y empty blocks live => taken ?_, fun empty none => taken ?_⟩
        · have words' : (left.service v).cb.openBlock.words = p :: ps := by rw [cb]; exact words
          rw [takeClear_open words', closeNow_eq words', cb,
            closedText_congr (s := s) (t := left) rfl rfl record (by rw [cb]) (by rw [cb])]
          exact congrArg _ (updService_congr rfl)
        · exact takeClear_text (by rw [cb]; exact empty) (by rw [cb]; exact blocks) live
        · exact takeClear_alone (by rw [cb]; exact empty) (by rw [cb]; exact none)
      · intro k i text a body lines groups formation
        have record : (left.service v).record = x.record := by rw [← leftIs, service_dropHead]
        have cue := takes.cue awake body
        rw [leftIs, takeCue_eq, record] at cue
        exact cue
    · rw [exec_pendingClosing awake, takeReaction_none (carryOutClosing_eq_none.mpr (barred.imp_right blockRoom_eq_false.mpr))]
    · intro shut
      have shutIs : closeNow v cause none s = shut := closeNow_eq words
      have carried := carryOutClosing_of_room closing has
      rw [shutIs] at carried
      refine ⟨fun none => answers_pendingClosing awake ?_, fun c carry => answers_pendingClosing awake ?_⟩
      · rw [carried, show (s.service v).cb.openBlock.carry = .none from none]; rfl
      · rw [carried, show (s.service v).cb.openBlock.carry = some c from carry]; rfl
    · have none : formBlock v s = .none := formBlock_eq_none.mpr
        (barred.imp_right (Or.imp Option.isSome_iff_ne_none.mpr blockRoom_eq_false.mpr))
      rw [exec_cueBlockFormation awake, takeReaction_none none]

end Sys2Proof.Machine
end

section
/-! One service served in a round of the packet assembly, and the rounds put together (O18). -/

namespace Sys2Proof.Machine

/-! ### The SHOW units that leave (R135, R141) -/

/-- The not-before frames of the SHOW units among some units. -/
def shows (us : List OutUnit) : List Frame := us.filterMap showFrameOf

/-- R135: the Dmax timer after the SHOWs `sent` have left, with the SHOWs `left` behind them. -/
def timerAfter (dmax : Nat) (sent left : List Frame) (t : DmaxTimer) : DmaxTimer :=
  match sent.getLast? with
  | some f => if t = .waiting ∧ left = [] then .running (f + BitVec.ofNat 32 dmax) else t
  | none => t

/-- R135, R141: the builder after the SHOWs `sent` have left in the packet of frame n. -/
def showsLeft (n : Frame) (dmax : Nat) (sent left : List Frame) (c : Builder) : Builder :=
  { c with slips := bumpBy c.slips (sent.countP fun f => strictlyBefore f n)
           timer := timerAfter dmax sent left c.timer }

section

variable {dmax : Nat} {t : DmaxTimer} {a b left : List Frame} {f n : Frame} {c : Builder}

theorem timerAfter_nil : timerAfter dmax [] left t = t := rfl

theorem timerAfter_concat : timerAfter dmax (a ++ [f]) left t =
    if t = .waiting ∧ left = [] then .running (f + BitVec.ofNat 32 dmax) else t := by
  rw [timerAfter, List.getLast?_concat]

theorem timerAfter_of_left (some : left ≠ []) : timerAfter dmax a left t = t := by
  rw [timerAfter]
  split
  · exact if_neg fun h => some h.2
  · rfl

/-- What leaves in two parts leaves as a whole. -/
theorem timerAfter_append : timerAfter dmax b left (timerAfter dmax a (b ++ left) t) = timerAfter dmax (a ++ b) left t := by
  rcases List.eq_nil_or_concat b with rfl | ⟨init, f, rfl⟩
  · rw [timerAfter_nil, List.nil_append, List.append_nil]
  · rw [timerAfter_of_left (left := init.concat f ++ left) (by simp), List.concat_eq_append, timerAfter_concat,
      ← List.append_assoc, timerAfter_concat]

theorem bumpBy_bumpBy (c : Count) (m n : Nat) : bumpBy (bumpBy c m) n = bumpBy c (m + n) := by
  refine BitVec.eq_of_toNat_eq ?_
  rw [toNat_bumpBy, toNat_bumpBy, toNat_bumpBy]; omega

theorem bump_eq (c : Count) : bump c = bumpBy c 1 := by
  rw [← bumpBy_zero (bump c), bumpBy_bump]

theorem showsLeft_append :
    showsLeft n dmax b left (showsLeft n dmax a (b ++ left) c) = showsLeft n dmax (a ++ b) left c := by
  simp only [showsLeft, timerAfter_append, bumpBy_bumpBy, List.countP_append]

theorem showsLeft_nil : showsLeft n dmax [] left c = c := by
  rw [showsLeft, timerAfter_nil, List.countP_nil, bumpBy_zero]

theorem showLeft_eq {s : State} {v : ServiceIx} (dmaxIs : (s.service v).record.dmax = dmax) :
    showLeft v f n left.isEmpty s = s.updCb v (showsLeft n dmax [f] left) := by
  have waited : (left.isEmpty = true) = (left = []) := by rw [List.isEmpty_iff]
  have slip (k : Count) : (if strictlyBefore f n = true then bump k else k) =
      bumpBy k ([f].countP fun f => strictlyBefore f n) := by
    cases late : strictlyBefore f n <;> simp [late, bump_eq, bumpBy_zero]
  have frame : moved f dmax = f + BitVec.ofNat 32 dmax := by rw [moved, BitVec.ofInt_natCast]
  rw [showLeft, State.updCb, State.updCb]
  refine updService_congr ?_
  simp only [showsLeft, slip, waited, dmaxIs, frame]
  rfl

end

theorem updCb_eq_self {s : State} {v : ServiceIx} {f : Builder → Builder} (h : f (s.service v).cb = (s.service v).cb) :
    s.updCb v f = s := updService_eq_self (by rw [h])

/-- R135, R141: the SHOWs of the departing units are reported one by one, each with those behind it. -/
theorem reportShows_eq (v : ServiceIx) (n : Frame) (rest units : List OutUnit) (s : State) :
    reportShows v n rest units s =
      s.updCb v (showsLeft n (s.service v).record.dmax (shows units) (shows rest)) := by
  induction units generalizing s with
  | nil => exact (updCb_eq_self showsLeft_nil).symm
  | cons u us ih =>
    rw [reportShows]
    cases kind : showFrameOf u with
    | none =>
      have same : shows (u :: us) = shows us := List.filterMap_cons_none kind
      rw [same]
      exact ih s
    | some f =>
      have behind : (us ++ rest).filterMap showFrameOf = shows us ++ shows rest := List.filterMap_append
      dsimp only
      rw [behind, showLeft_eq rfl, ih, updCb_updCb, service_updCb_same]
      have both : shows (u :: us) = [f] ++ shows us := List.filterMap_cons_some kind
      rw [both]
      exact congrArg _ (funext fun c => showsLeft_append)

/-! ### One service in one round (R145 to R148) -/

/-- R145 to R148: a service that has given t in a round. -/
def servedBy (round2 : Bool) (n : Frame) (t : Taken) (x : Service) : Service :=
  { x with om := countTaken round2 t x.om, cb := showsLeft n x.record.dmax (shows t.units) (shows t.rest) x.cb }

theorem serveRound_eq (r : Bool) (n : Frame) (v : ServiceIx) (room : Nat) (s : State) :
    serveRound r n v room s = (takeUnits n (s.service v).om.fifo room,
      s.updService v (servedBy r n (takeUnits n (s.service v).om.fifo room))) := by
  rw [serveRound, reportShows_eq, State.updOm, State.updCb, updService_updService, service_updService_same]
  exact congrArg (Prod.mk _) (updService_congr rfl)

/-! ### One round -/

/-- The services of a list served in one round, against a room that rests on the bytes used before. -/
def roundOver (r : Bool) (n : Frame) (room : Nat → ServiceIx → Nat) (vs : List ServiceIx) (a : Assembly) : Assembly :=
  vs.foldl (fun b v => assembleOne r n (room b.used v) b v) a

/-- What the services of a list give in one round, each its own. -/
structure Round (r : Bool) (n : Frame) (vs : List ServiceIx) (taken : ServiceIx → Taken) (a b : Assembly) : Prop where
  service : ∀ v, b.state.service v =
    if v ∈ vs then servedBy r n (taken v) (a.state.service v) else a.state.service v
  placed : b.placed = a.placed ++ vs.flatMap fun v => (taken v).units.map fun u => (v, u)
  used : b.used = a.used + (vs.map fun v => (taken v).used).sum

/-- Each service gives what it has against the room that the services before it leave. -/
theorem round_roundOver {r : Bool} {n : Frame} {room : Nat → ServiceIx → Nat} {vs : List ServiceIx} {a : Assembly}
    {taken : ServiceIx → Taken} (once : vs.Nodup)
    (each : ∀ earlier v later, vs = earlier ++ v :: later → taken v = takeUnits n (a.state.service v).om.fifo
      (room (a.used + (earlier.map fun u => (taken u).used).sum) v)) :
    Round r n vs taken a (roundOver r n room vs a) := by
  induction vs generalizing a with
  | nil => exact ⟨fun v => rfl, by simp [roundOver], by simp [roundOver]⟩
  | cons w ws ih =>
    obtain ⟨new, once⟩ := List.nodup_cons.mp once
    have first : taken w = takeUnits n (a.state.service w).om.fifo (room a.used w) := by
      have h := each [] w ws rfl
      rwa [List.map_nil, List.sum_nil, Nat.add_zero] at h
    have head : assembleOne r n (room a.used w) a w =
        { state := a.state.updService w (servedBy r n (taken w))
          placed := a.placed ++ (taken w).units.map fun u => (w, u), used := a.used + (taken w).used } := by
      rw [assembleOne, serveRound_eq, ← first]
    have rest := ih (a := assembleOne r n (room a.used w) a w) once fun earlier v later split => by
      have h := each (w :: earlier) v later (by rw [split]; rfl)
      have other : v ≠ w := fun e => new (by rw [split, ← e]; simp)
      rw [head, service_updService, if_neg other, h, List.map_cons, List.sum_cons, ← Nat.add_assoc]
    obtain ⟨service, placed, used⟩ := rest
    have step : roundOver r n room (w :: ws) a = roundOver r n room ws (assembleOne r n (room a.used w) a w) := rfl
    rw [step]
    refine ⟨fun v => ?_, ?_, ?_⟩
    · rw [service, head, service_updService]
      by_cases same : v = w
      · subst same; simp [new]
      · simp [same]
    · rw [placed, head, List.flatMap_cons, List.append_assoc]
    · rw [used, head, List.map_cons, List.sum_cons, Nat.add_assoc]

end Sys2Proof.Machine
end

section
/-! The packet assembly: both rounds, the starved counts and the payload (O18). -/

namespace Sys2Proof.Machine

/-! ### A service in both rounds -/

section

variable {n : Frame} {x : Service} {v : ServiceIx} {s : State}

theorem shows_takeUnits (n : Frame) (fifo : List OutUnit) (room : Nat) :
    shows (takeUnits n fifo room).units ++ shows (takeUnits n fifo room).rest = shows fifo := by
  have cons (u : OutUnit) (us ws : List OutUnit) : shows (u :: us) ++ shows ws = shows [u] ++ (shows us ++ shows ws) := by
    rw [← List.append_assoc]
    exact congrArg (· ++ shows ws) (List.filterMap_append (l := [u]))
  induction fifo generalizing room with
  | nil => rfl
  | cons u us ih =>
    obtain ⟨-, -, e⟩ | ⟨gs, kind, -, -, -, e⟩ | ⟨-, e⟩ := takeUnits_cons n u us room
    · rw [e]
      have rest := ih (room - unitCost u)
      rw [takenWhole]
      dsimp only
      rw [cons, rest]
      exact (List.filterMap_append (l := [u])).symm
    · rw [e]
      have silent : showFrameOf u = none := by rw [showFrameOf, kind]
      have piece : showFrameOf (plainUnit (.glyphs (gs.take (room - 2)))) = none := rfl
      have stays : showFrameOf { u with kind := .glyphs (gs.drop (room - 2)) } = none := rfl
      simp only [takenSplit, shows, List.filterMap_cons_none piece, List.filterMap_cons_none stays,
        List.filterMap_cons_none silent, List.filterMap_nil, List.nil_append]
    · rw [e]; rfl

/-- R145 to R148: a service that has given t1 in round 1 and t2 in round 2. -/
def servedTwice (n : Frame) (t1 t2 : Taken) (x : Service) : Service :=
  { x with
    om := { x.om with
      fifo := t2.rest
      unitsCarried := bumpBy x.om.unitsCarried (t1.units ++ t2.units).length
      bytesCarried := bumpBy x.om.bytesCarried (t1.used + t2.used)
      round2Bytes := bumpBy x.om.round2Bytes t2.used
      splits := bumpBy x.om.splits (t1.split.toNat + t2.split.toNat) }
    cb := showsLeft n x.record.dmax (shows (t1.units ++ t2.units)) (shows t2.rest) x.cb }

theorem countTaken_countTaken (t1 t2 : Taken) (o : Carriage) :
    countTaken true t2 (countTaken false t1 o) =
      { o with
        fifo := t2.rest
        unitsCarried := bumpBy o.unitsCarried (t1.units ++ t2.units).length
        bytesCarried := bumpBy o.bytesCarried (t1.used + t2.used)
        round2Bytes := bumpBy o.round2Bytes t2.used
        splits := bumpBy o.splits (t1.split.toNat + t2.split.toNat) } := by
  have split (b : Bool) (c : Count) : (if b = true then bump c else c) = bumpBy c b.toNat := by
    cases b <;> simp [bump_eq, bumpBy_zero]
  simp only [countTaken, split, bumpBy_bumpBy, List.length_append, if_true]
  rfl

theorem servedBy_servedBy {t1 t2 : Taken} (behind : shows t2.units ++ shows t2.rest = shows t1.rest) :
    servedBy true n t2 (servedBy false n t1 x) = servedTwice n t1 t2 x := by
  have gone : shows (t1.units ++ t2.units) = shows t1.units ++ shows t2.units := List.filterMap_append
  simp only [servedBy, servedTwice, countTaken_countTaken, ← behind, showsLeft_append, gone]

/-! ### The starved services (R148) -/

theorem service_forServices_updOm (p : ServiceIx → Bool) (f : Carriage → Carriage) (s : State) (v : ServiceIx) :
    (forServices (fun w t => if p w = true then t.updOm w f else t) s).service v =
      if p v = true then { s.service v with om := f (s.service v).om } else s.service v := by
  have step (w : ServiceIx) (t : State) (u : ServiceIx) : (if p w = true then t.updOm w f else t).service u =
      if u = w ∧ p u = true then { t.service u with om := f (t.service u).om } else t.service u := by
    by_cases same : u = w
    · subst same; by_cases on : p u = true <;> simp [on]
    · by_cases on : p w = true <;> simp [on, same, service_updOm]
  simp only [forServices, fours, List.foldl_cons, List.foldl_nil, step]
  fin_cases v <;> simp

theorem service_countStarved (n : Frame) (before : State) (placed : List (ServiceIx × OutUnit)) (s : State)
    (v : ServiceIx) :
    (countStarved n before placed s).service v =
      if headEligible n (before.service v).om = true ∧ ∀ p ∈ placed, p.1 ≠ v then
        { s.service v with om := { (s.service v).om with starved := bump (s.service v).om.starved } }
      else s.service v := by
  rw [countStarved]
  refine (service_forServices_updOm (fun v => headEligible n (before.service v).om &&
    placed.all fun p => decide (p.1 ≠ v)) (fun o => { o with starved := bump o.starved }) s v).trans ?_
  simp only [Bool.and_eq_true, List.all_eq_true, decide_eq_true_iff]

theorem headEligible_iff {o : Carriage} :
    headEligible n o = true ↔ ∃ u us, o.fifo = u :: us ∧ eligible n u = true := by
  rw [headEligible]
  cases o.fifo with
  | nil => simp
  | cons u us => simp

/-! ### The services in order of priority (R146) -/

/-- R146: the service u is served before v in round 2. -/
def Before (s : State) (u v : ServiceIx) : Prop :=
  (s.service u).record.priority < (s.service v).record.priority ∨
    (s.service u).record.priority = (s.service v).record.priority ∧ u < v

theorem pairwise_round2Order (s : State) : (round2Order s).Pairwise (Before s) := by
  refine List.pairwise_flatMap.mpr ⟨fun k _ => ?_, ?_⟩
  · have level {u : ServiceIx} (h : u ∈ fours.filter fun v => (s.service v).record.priority == k) :
        (s.service u).record.priority = k := by simpa using (List.mem_filter.mp h).2
    have rising : (fours.filter fun v => (s.service v).record.priority == k).Pairwise (· < ·) :=
      List.Pairwise.filter _ (by decide)
    exact rising.imp_of_mem fun hu hv less => .inr ⟨(level hu).trans (level hv).symm, less⟩
  · have rising : [0, 1, 2, 3].Pairwise fun j k : Nat => j < k := by decide
    refine rising.imp fun {j k} less u hu v hv => .inl ?_
    have hu := (List.mem_filter.mp hu).2
    have hv := (List.mem_filter.mp hv).2
    rw [beq_iff_eq] at hu hv
    omega

theorem Before.irrefl {s : State} {u v : ServiceIx} (h : Before s u v) : u ≠ v := by
  rintro rfl
  rcases h with h | ⟨-, h⟩ <;> exact absurd h (lt_irrefl _)

theorem perm_round2Order {s : State} (levels : ∀ v, (s.service v).record.priority ≤ 3) :
    (round2Order s).Perm [0, 1, 2, 3] := by
  refine (List.perm_ext_iff_of_nodup ((pairwise_round2Order s).imp Before.irrefl) (by decide)).mpr fun v => ?_
  have level := levels v
  have listed : v ∈ fours := mem_fours v
  have all : (s.service v).record.priority ∈ [0, 1, 2, 3] := by
    simp only [List.mem_cons, List.not_mem_nil, or_false]; omega
  exact iff_of_true (List.mem_flatMap.mpr ⟨_, all, List.mem_filter.mpr ⟨listed, beq_self_eq_true _⟩⟩) listed

/-- There is one order by priority and number. -/
theorem order_eq {s : State} {order : List ServiceIx} (levels : ∀ v, (s.service v).record.priority ≤ 3)
    (perm : order.Perm [0, 1, 2, 3]) (sorted : order.Pairwise (Before s)) : order = round2Order s := by
  refine List.Perm.eq_of_pairwise (fun u v _ _ huv hvu => ?_) sorted (pairwise_round2Order s)
    (perm.trans (perm_round2Order levels).symm)
  rcases huv with h | ⟨e, h⟩ <;> rcases hvu with h' | ⟨e', h'⟩
  · omega
  · omega
  · omega
  · exact absurd (h.trans h') (lt_irrefl _)

theorem round2Order_congr {s t : State} (same : ∀ v, (t.service v).record = (s.service v).record) :
    round2Order t = round2Order s := by
  simp only [round2Order, same]

/-! ### Both rounds -/

theorem round1_eq (n : Frame) (s : State) : round1 n s =
    roundOver false n (fun _ v => allowance s v) fours { state := s, placed := [], used := 0 } := rfl

theorem round2_eq (n : Frame) (a : Assembly) : round2 n a =
    roundOver true n (fun used _ => 48 - used) (round2Order a.state) a := rfl

/-- R144, R145: the allowances come to at most the twelve slots of four bytes. -/
theorem sum_allowance_le (s : State) : (fours.map (allowance s)).sum ≤ 48 := by
  have slots (xs : List (Option ServiceIx)) : (fours.map fun v => xs.count (some v)).sum ≤ xs.length := by
    induction xs with
    | nil => decide
    | cons y ys ih =>
      simp only [fours, List.map_cons, List.map_nil, List.sum_cons, List.sum_nil, List.count_cons, List.length_cons] at ih ⊢
      rcases y with _ | w
      · simpa using Nat.le_succ_of_le ih
      · fin_cases w <;> simp <;> omega
  have each (v : ServiceIx) : allowance s v ≤ 4 * s.slotMap.toList.count (some v) := by
    rw [allowance, Config.slotSize]; split <;> omega
  have map := slots s.slotMap.toList
  rw [Vector.length_toList] at map
  simp only [fours, List.map_cons, List.map_nil, List.sum_cons, List.sum_nil] at map ⊢
  have := each 0; have := each 1; have := each 2; have := each 3
  omega

end

end Sys2Proof.Machine
end

section
/-! The payload of a caption packet, and what its assembly places and leaves (O18). -/

namespace Sys2Proof.Machine

/-! ### The payload (R148) -/

section

variable {s : State}

theorem length_unitBytes (v : ServiceIx) (u : OutUnit) : (unitBytes v u).length = unitCost u := by
  rw [unitBytes, unitCost]
  cases u.kind with
  | glyphs gs => simp only [List.length_cons]; omega
  | _ => rfl

theorem length_payloadBytes (ps : List (ServiceIx × OutUnit)) :
    (ps.flatMap fun p => unitBytes p.1 p.2).length = unitsCost (ps.map Prod.snd) := by
  induction ps with
  | nil => rfl
  | cons p ps ih => rw [List.flatMap_cons, List.length_append, length_unitBytes, ih, List.map_cons, unitsCost_cons]

/-- What an assembly has used is what its units cost, within the payload. -/
structure WithinPayload (most : Nat) (a : Assembly) : Prop where
  cost : a.used = unitsCost (a.placed.map Prod.snd)
  most : a.used ≤ most

theorem WithinPayload.withState {most : Nat} {a : Assembly} (h : WithinPayload most a) (t : State) :
    WithinPayload most { a with state := t } := ⟨h.cost, h.most⟩

theorem used_assembleOne (r : Bool) (n : Frame) (room : Nat) (a : Assembly) (v : ServiceIx) :
    (assembleOne r n room a v).used ≤ a.used + room ∧
      (a.used = unitsCost (a.placed.map Prod.snd) →
        (assembleOne r n room a v).used = unitsCost ((assembleOne r n room a v).placed.map Prod.snd)) := by
  obtain ⟨cost, within⟩ := used_takeUnits n (a.state.service v).om.fifo room
  rw [assembleOne, serveRound_eq]
  refine ⟨Nat.add_le_add_left within _, fun whole => ?_⟩
  have units (us : List OutUnit) : (us.map fun u => (v, u)).map Prod.snd = us := by
    rw [List.map_map]; exact List.map_id' us
  dsimp only
  rw [List.map_append, units, unitsCost_append, ← whole, ← cost]

theorem withinPayload_assembleOne {r : Bool} {n : Frame} {room most : Nat} {a : Assembly} {v : ServiceIx}
    (h : WithinPayload most a) : WithinPayload (most + room) (assembleOne r n room a v) := by
  obtain ⟨used, cost⟩ := used_assembleOne r n room a v
  exact ⟨cost h.cost, used.trans (Nat.add_le_add_right h.most room)⟩

theorem withinPayload_round1 (n : Frame) (s : State) : WithinPayload 48 (round1 n s) := by
  have begun : WithinPayload 0 { state := s, placed := [], used := 0 } := ⟨rfl, le_rfl⟩
  have one {most : Nat} {a : Assembly} (v : ServiceIx) (h : WithinPayload most a) :
      WithinPayload (most + allowance s v) (assembleOne false n (allowance s v) a v) := withinPayload_assembleOne h
  have served := one 3 (one 2 (one 1 (one 0 begun)))
  have slots := sum_allowance_le s
  simp only [fours, List.map_cons, List.map_nil, List.sum_cons, List.sum_nil] at slots
  exact ⟨served.cost, served.most.trans (by omega)⟩

theorem withinPayload_round2 {n : Frame} {a : Assembly} (h : WithinPayload 48 a) : WithinPayload 48 (round2 n a) := by
  refine foldl_keeps (P := WithinPayload 48) (fun b v h => ?_) _ h
  obtain ⟨used, cost⟩ := used_assembleOne true n (Config.payloadSize - b.used) b v
  refine ⟨cost h.cost, used.trans ?_⟩
  have := h.most
  rw [Config.payloadSize]; omega

theorem withinPayload_assemble (s : State) : WithinPayload 48 (assemble s) := by
  rw [assemble]
  exact (withinPayload_round2 (withinPayload_round1 s.pfn (applyMap s))).withState _

theorem payload_assemble (s : State) : payload (assemble s) =
    ((assemble s).placed.flatMap fun p => unitBytes p.1 p.2) ++ List.replicate (48 - (assemble s).used) 0#8 := by
  rw [(withinPayload_assemble s).cost, ← length_payloadBytes]
  rfl

theorem glyphs_placed {p : ServiceIx × OutUnit} (placed : p ∈ (assemble s).placed) {gs : List Byte}
    (kind : p.2.kind = .glyphs gs) : gs.length ≤ 46 := by
  obtain ⟨cost, most⟩ := withinPayload_assemble s
  have among : p.2 ∈ (assemble s).placed.map Prod.snd := List.mem_map_of_mem placed
  have one : unitCost p.2 ≤ unitsCost ((assemble s).placed.map Prod.snd) :=
    List.le_sum_of_mem (List.mem_map_of_mem among)
  rw [unitCost_glyphs kind] at one
  omega

end

/-! ### What the assembly places and leaves -/

section

variable {s : State} {second : ServiceIx → Taken}

/-- R145: what a service gives in round 1, against its allowance under the map that is in force. -/
def firstTaken (s : State) (v : ServiceIx) : Taken :=
  takeUnits s.pfn (s.service v).om.fifo (allowance (applyMap s) v)

theorem service_applyMap (s : State) (v : ServiceIx) : (applyMap s).service v = s.service v := by
  rw [applyMap_eq]; rfl

theorem round_first (s : State) : Round false s.pfn fours (firstTaken s)
    { state := applyMap s, placed := [], used := 0 } (round1 s.pfn (applyMap s)) := by
  rw [round1_eq]
  refine round_roundOver (by decide) fun earlier v later _ => ?_
  rw [firstTaken, service_applyMap]

theorem service_round1 (s : State) (v : ServiceIx) : (round1 s.pfn (applyMap s)).state.service v =
    servedBy false s.pfn (firstTaken s v) (s.service v) := by
  have listed : v ∈ fours := mem_fours v
  rw [(round_first s).service, if_pos listed, service_applyMap]

/-- R146: what each service gives in round 2, in order against the bytes left. -/
def SecondTaken (s : State) (order : List ServiceIx) (second : ServiceIx → Taken) : Prop :=
  ∀ earlier v later, order = earlier ++ v :: later → second v = takeUnits s.pfn (firstTaken s v).rest
    (48 - ((round1 s.pfn (applyMap s)).used + (earlier.map fun u => (second u).used).sum))

theorem round2Order_round1 (s : State) : round2Order (round1 s.pfn (applyMap s)).state = round2Order s :=
  round2Order_congr fun v => by rw [service_round1]; rfl

theorem round_second (once : (round2Order s).Nodup) (h : SecondTaken s (round2Order s) second) :
    Round true s.pfn (round2Order s) second (round1 s.pfn (applyMap s)) (round2 s.pfn (round1 s.pfn (applyMap s))) := by
  rw [round2_eq, round2Order_round1]
  refine round_roundOver once fun earlier v later split => ?_
  rw [h earlier v later split, service_round1]
  rfl

theorem assemble_eq (s : State) : assemble s =
    let a := round2 s.pfn (round1 s.pfn (applyMap s))
    { a with state := countStarved s.pfn (applyMap s) a.placed a.state } := rfl

/-- The units that services give, each with its service. -/
def tagged (vs : List ServiceIx) (taken : ServiceIx → Taken) : List (ServiceIx × OutUnit) :=
  vs.flatMap fun v => (taken v).units.map fun u => (v, u)

theorem untagged_iff {vs : List ServiceIx} {taken : ServiceIx → Taken} {v : ServiceIx} (listed : v ∈ vs) :
    (∀ p ∈ tagged vs taken, p.1 ≠ v) ↔ (taken v).units = [] := by
  constructor
  · intro none
    by_contra some
    obtain ⟨u, us, units⟩ := List.exists_cons_of_ne_nil some
    refine none (v, u) (List.mem_flatMap.mpr ⟨v, listed, ?_⟩) rfl
    rw [units]
    exact List.mem_cons_self
  · rintro empty p placed rfl
    obtain ⟨w, -, given⟩ := List.mem_flatMap.mp placed
    obtain ⟨u, mem, rfl⟩ := List.mem_map.mp given
    rw [empty] at mem
    exact absurd mem List.not_mem_nil

theorem rounds_assemble (h : SecondTaken s (round2Order s) second) : Round true s.pfn (round2Order s) second (round1 s.pfn (applyMap s))
    (round2 s.pfn (round1 s.pfn (applyMap s))) :=
  round_second ((pairwise_round2Order s).imp Before.irrefl) h

theorem placed_assemble (h : SecondTaken s (round2Order s) second) :
    (assemble s).placed = tagged fours (firstTaken s) ++ tagged (round2Order s) second := by
  rw [assemble_eq]
  dsimp only
  rw [(rounds_assemble h).placed, (round_first s).placed]
  rfl

section

variable (levels : ∀ v, (s.service v).record.priority ≤ 3) (h : SecondTaken s (round2Order s) second)

include levels h

theorem used_assemble :
    (assemble s).used = (fours.map fun v => (firstTaken s v).used + (second v).used).sum := by
  have all : ((round2Order s).map fun v => (second v).used).sum = (fours.map fun v => (second v).used).sum :=
    ((perm_round2Order levels).map _).sum_eq
  rw [assemble_eq]
  dsimp only
  rw [(rounds_assemble h).used, (round_first s).used, all, List.sum_map_add, Nat.zero_add]

theorem service_round2 (v : ServiceIx) : (round2 s.pfn (round1 s.pfn (applyMap s))).state.service v =
    servedTwice s.pfn (firstTaken s v) (second v) (s.service v) := by
  have listed : v ∈ round2Order s := (perm_round2Order levels).mem_iff.mpr (mem_fours v)
  obtain ⟨earlier, later, split⟩ := List.append_of_mem listed
  have behind : shows (second v).units ++ shows (second v).rest = shows (firstTaken s v).rest := by
    rw [h earlier v later split]; exact shows_takeUnits ..
  rw [(rounds_assemble h).service, if_pos listed, service_round1, servedBy_servedBy behind]

/-- R148: a service starves when it gives nothing though the head of its FIFO is eligible. -/
def Starves (s : State) (second : ServiceIx → Taken) (v : ServiceIx) : Prop :=
  (firstTaken s v).units ++ (second v).units = [] ∧
    ∃ u us, (s.service v).om.fifo = u :: us ∧ eligible s.pfn u = true

theorem starves_iff (v : ServiceIx) : Starves s second v ↔
    headEligible s.pfn ((applyMap s).service v).om = true ∧
      ∀ p ∈ (round2 s.pfn (round1 s.pfn (applyMap s))).placed, p.1 ≠ v := by
  have listed : v ∈ fours := mem_fours v
  have listed2 : v ∈ round2Order s := (perm_round2Order levels).mem_iff.mpr listed
  have none : (∀ p ∈ (round2 s.pfn (round1 s.pfn (applyMap s))).placed, p.1 ≠ v) ↔
      (firstTaken s v).units ++ (second v).units = [] := by
    have placed := placed_assemble h
    rw [assemble_eq] at placed
    dsimp only at placed
    rw [placed, List.append_eq_nil_iff, ← untagged_iff listed, ← untagged_iff listed2]
    exact List.forall_mem_append
  rw [Starves, none, headEligible_iff, service_applyMap]
  exact and_comm

/-- R148: what the assembly leaves of a starved service. -/
theorem service_assemble_starved {v : ServiceIx} (starved : Starves s second v) : (assemble s).state.service v =
    let x := servedTwice s.pfn (firstTaken s v) (second v) (s.service v)
    { x with om := { x.om with starved := bump x.om.starved } } := by
  rw [assemble_eq]
  dsimp only
  rw [service_countStarved, if_pos ((starves_iff levels h v).mp starved), service_round2 levels h]

/-- R148: what the assembly leaves of any other service. -/
theorem service_assemble_fed {v : ServiceIx} (fed : ¬ Starves s second v) : (assemble s).state.service v =
    servedTwice s.pfn (firstTaken s v) (second v) (s.service v) := by
  rw [assemble_eq]
  dsimp only
  rw [service_countStarved, if_neg ((starves_iff levels h v).not.mp fed), service_round2 levels h]

end

end

/-- Settles O18: the bounds, the layout, and the two rounds. -/
theorem payloadIsFull : Obligations.PayloadIsFull := by
  refine ⟨fun s => ?_, fun s => ?_, ?_⟩
  · obtain ⟨cost, most⟩ := withinPayload_assemble s
    have bytes := length_payloadBytes (assemble s).placed
    refine ⟨?_, most, cost, fun p placed gs => glyphs_placed placed, sum_allowance_le s⟩
    rw [payload_assemble, List.length_append, List.length_replicate, bytes, ← cost]
    omega
  · intro code bytes
    have bytesIs : bytes = (assemble s).placed.flatMap fun p => unitBytes p.1 p.2 := by
      refine congrArg (fun f => (assemble s).placed.flatMap f) (funext fun p => ?_)
      rw [unitBytes]
      cases p.2.kind <;> rfl
    refine ⟨?_, ?_⟩
    · rw [bytesIs, length_payloadBytes, ← (withinPayload_assemble s).cost]
    · rw [bytesIs, payload_assemble]
  · intro s order second level map share first shows' a levels perm sorted each
    have firstIs : first = firstTaken s := by
      funext v
      have shareIs : share v = allowance (applyMap s) v := by rw [allowance, applyMap_eq]; rfl
      show takeUnits _ _ (share v) = _
      rw [shareIs]; rfl
    have orderIs : order = round2Order s := order_eq levels perm sorted
    have firstUsed : (round1 s.pfn (applyMap s)).used = ([0, 1, 2, 3].map fun u => (first u).used).sum := by
      rw [(round_first s).used, firstIs, Nat.zero_add]; rfl
    have h : SecondTaken s (round2Order s) second := by
      intro earlier v later split
      rw [each earlier v later (orderIs.trans split), firstUsed, Nat.sub_sub, firstIs]
    rw [firstIs, orderIs]
    refine ⟨placed_assemble h, used_assemble levels h, fun v => ?_, ?_⟩
    · intro x gone left starves
      by_cases starved : starves
      · exact ⟨bump x.om.starved, fun _ => rfl, fun fed => absurd starved fed, service_assemble_starved levels h starved⟩
      · exact ⟨x.om.starved, fun hungry => absurd hungry starved, fun _ => rfl, service_assemble_fed levels h starved⟩
    · have frame := (buildsAny_assemble s).1
      rw [applyMap_eq] at frame
      exact frame

end Sys2Proof.Machine
end
